-- ==== Sys2Proof/Word.lean ====
section
/-! DEFINITION. The word types of the lamatrix wire protocol (spec/00_scope.md R11, R12): every value that crosses the
link or is presented to a port is an unsigned word of one of these widths, with bit 0 the least significant. -/

namespace Sys2Proof

/-- `u8`: one byte of the link, an opcode byte, or a colour channel (R12). -/
abbrev Byte := BitVec 8

/-- `u16`: a physical address, a pixel count, a number of seconds, or a mapper operand (R12, R19, R66, R69). -/
abbrev U16 := BitVec 16

/-- `u32`: the clock field of `SetClock` (R12, R19). -/
abbrev U32 := BitVec 32

end Sys2Proof
end

