-- ==== Sys2Proof/Config.lean ====
section
/-! DEFINITION. What is fixed for a machine: the constants of the byte table (R11), the two OPEN parameters of the
platform (R8, R10), and the configuration inputs of the CoordinateMapper (R24), which are parameters of the whole run
(R25). `WRITE_TIMEOUT` (R9) has
no value here: no rule measures time, and it enters only as the environment's answer `Timeout` (R16). -/

namespace Sys2Proof

/-- `MAX_PAYLOAD`, the longest payload of the byte table (R11). -/
def Config.maxPayload : Nat := 5

/-- `MAX_MSG_LEN`, that payload and its opcode byte (R11). -/
def Config.maxMsgLen : Nat := 6

/-- How far the platform's `RESYNC_LEN` lies above its minimum. The spec leaves the length OPEN (R8, D6), so it has no
body: no proof can see what it is (DESIGN CHOICE, safe: log entry 1). -/
opaque Config.resyncBeyondMinimum : Nat

/-- `RESYNC_LEN`: any natural number with `RESYNC_LEN >= 5` (R8). Every such number is one choice of
`Config.resyncBeyondMinimum`. -/
def Config.resyncLen : Nat := Config.maxPayload + Config.resyncBeyondMinimum

/-- `DEVICE_SEES_REOPEN`: whether the host's opening of the link asserts the Decoder's `rst` input. The spec leaves it
OPEN (R10, D11), so it has no body (DESIGN CHOICE, safe: log entry 1). -/
opaque Config.deviceSeesReopen : Bool

/-- The configuration inputs of the CoordinateMapper, with the widths of R24 (D27). -/
structure Geometry where
  /-- `ROWS`: the LEDs of one physical column. -/
  rows : U16
  /-- `COLUMNS`: the number of physical columns. -/
  columns : U16
  /-- `ROT`: the rotation as a 2-bit number (R7). -/
  rot : BitVec 2
  deriving DecidableEq, Repr

/-- `ROWS` of the run. The configuration has no reset value and is a parameter of the whole run (R6, R25), so it has no
body and may be any 16-bit value, legal or not (log entry 6). -/
opaque Config.rows : U16

/-- `COLUMNS` of the run (R6, R25; log entry 6). -/
opaque Config.columns : U16

/-- `ROT` of the run (R7, R25; log entry 6). -/
opaque Config.rot : BitVec 2

/-- The configuration of the run (R24, R25). -/
def Config.geometry : Geometry := { rows := Config.rows, columns := Config.columns, rot := Config.rot }

/-- The four rotations that `ROT` names (R7). -/
inductive Rotation where
  | deg0
  | deg90
  | deg180
  | deg270
  deriving DecidableEq, Repr

end Sys2Proof
end

