-- ==== Sys2Proof/Syntax.lean ====
section
/-! DEFINITION. The instruction set: the eight rows of spec/opcode_table.json (R47, R56, R59). Seven rows are the
wire messages of R19; the eighth is the resync byte, which is no message (R19) but the protocol's one no-operation
encoding (R56). -/

namespace Sys2Proof

/-- One instruction of the wire protocol, one constructor per row of the opcode table. -/
inductive Instr where
  /-- `Init` (opcode `i`, R74). -/
  | init (pixelCount : U16)
  /-- `Clear` (opcode `c`, R75). -/
  | clear
  /-- `Show` (opcode `s`, R76). -/
  | showPixels
  /-- `SetPixel` (opcode `l`, R77). -/
  | setPixel (addr : U16) (r g b : Byte)
  /-- `SetClock` (opcode `@`, R78). -/
  | setClock (unixTime : U32)
  /-- `SetAutoRender` (opcode `t`, R79). -/
  | setAutoRender (enabled : Bool)
  /-- `SuspendHost` (opcode `S`, R80). -/
  | suspendHost (seconds : U16)
  /-- `RESYNC`, the byte `0x00` in the opcode position (R56, R86). -/
  | resync
  deriving DecidableEq, Repr

end Sys2Proof
end

