-- ==== Sys2Proof/WellFormed.lean ====
section
/-! DEFINITION. Well-formedness of instructions (R12, R19, R59, R83). An `Instr` carries its operands at their widths,
and R83 gives no other check, so every `Instr` is well formed. The checks bite on the textual terms of R59, whose
operands are written as plain numbers and may not fit. -/

namespace Sys2Proof

/-- Every operand within its width: the only condition on an instruction (R83, "Neither the Encoder nor the Decoder
checks a field's value beyond its width"). -/
def Instr.wellFormed : Instr → Bool
  | .init n => decide (n.toNat < 2 ^ 16)
  | .clear => true
  | .showPixels => true
  | .setPixel a r g b =>
    decide (a.toNat < 2 ^ 16) && decide (r.toNat < 2 ^ 8) && decide (g.toNat < 2 ^ 8) && decide (b.toNat < 2 ^ 8)
  | .setClock t => decide (t.toNat < 2 ^ 32)
  | .setAutoRender _ => true
  | .suspendHost s => decide (s.toNat < 2 ^ 16)
  | .resync => true

/-- A message line as R59 writes it: the operands are numbers of the text, not yet words. -/
inductive MessageTerm where
  | init (n : Nat)
  | clear
  | showPixels
  | setPixel (addr r g b : Nat)
  | setClock (t : Nat)
  | setAutoRender (enabled : Bool)
  | suspendHost (s : Nat)
  deriving DecidableEq, Repr

/-- The operand ranges of R59: `n`, `addr` and `s` are `u16`, the channels `u8`, `t` is `u32`. -/
def MessageTerm.wellFormed : MessageTerm → Bool
  | .init n => decide (n < 2 ^ 16)
  | .clear => true
  | .showPixels => true
  | .setPixel a r g b => decide (a < 2 ^ 16) && decide (r < 2 ^ 8) && decide (g < 2 ^ 8) && decide (b < 2 ^ 8)
  | .setClock t => decide (t < 2 ^ 32)
  | .setAutoRender _ => true
  | .suspendHost s => decide (s < 2 ^ 16)

end Sys2Proof
end

