-- ==== Sys2Proof/Decode.lean ====
section
/-! DEFINITION. The wire encoding, both ways: little-endian field assembly (R14), the opcode table (R47, R48, R55), the
Decoder's `build` (R81), decoding of a byte sequence from an opcode position, and the encoder (R73). -/

namespace Sys2Proof

/-! ### Field assembly (R14, R36, R54) -/

/-- `le16(v) = [v[7:0], v[15:8]]` (R14). -/
def le16 (v : U16) : List Byte := [v.extractLsb' 0 8, v.extractLsb' 8 8]

/-- `le32(v) = [v[7:0], v[15:8], v[23:16], v[31:24]]` (R14). -/
def le32 (v : U32) : List Byte :=
  [v.extractLsb' 0 8, v.extractLsb' 8 8, v.extractLsb' 16 8, v.extractLsb' 24 8]

/-- `u16le(b0, b1) = b0 + 256*b1` (R14). -/
def u16le (b0 b1 : Byte) : U16 := BitVec.ofNat 16 (b0.toNat + 256 * b1.toNat)

/-- `u32le(b0, b1, b2, b3) = b0 + 256*b1 + 65536*b2 + 16777216*b3` (R14). -/
def u32le (b0 b1 b2 b3 : Byte) : U32 :=
  BitVec.ofNat 32 (b0.toNat + 256 * b1.toNat + 65536 * b2.toNat + 16777216 * b3.toNat)

/-- The Boolean byte as the Encoder writes it (R54, D5). -/
def boolByte (e : Bool) : Byte := if e then 0x01#8 else 0x00#8

/-- The Boolean byte as the Decoder reads it: `0x00` is false, every other value true (R54, D5; the spec's own decision,
log entry 12). -/
def byteBool (b : Byte) : Bool := b != 0x00#8

/-! ### The opcode table (R47, R48, R55, R56) -/

/-- The byte that, in the opcode position, is the resync byte (R56). -/
def resyncByte : Byte := 0x00#8

/-- The seven kinds of message (R19), without their operands. -/
inductive MessageKind where
  | init
  | clear
  | showPixels
  | setPixel
  | setClock
  | setAutoRender
  | suspendHost
  deriving DecidableEq, Repr

/-- The opcode byte of each kind: the ASCII code of its character (R48). The one place that holds these numbers
(93_implementation_defined.md I13; UNVERIFIED, log entry 13). -/
def MessageKind.opcode : MessageKind → Byte
  | .init => 0x69#8
  | .clear => 0x63#8
  | .showPixels => 0x73#8
  | .setPixel => 0x6C#8
  | .setClock => 0x40#8
  | .setAutoRender => 0x74#8
  | .suspendHost => 0x53#8

/-- The payload length of each kind (R47, R55). -/
def MessageKind.payloadLen : MessageKind → Nat
  | .init => 2
  | .clear => 0
  | .showPixels => 0
  | .setPixel => 5
  | .setClock => 4
  | .setAutoRender => 1
  | .suspendHost => 2

/-- Every kind, in the order of the byte table (R47). -/
def MessageKind.all : List MessageKind :=
  [.init, .clear, .showPixels, .setPixel, .setClock, .setAutoRender, .suspendHost]

/-- The kind whose opcode byte is `b`, if any (R55). -/
def kindOf (b : Byte) : Option MessageKind := MessageKind.all.find? (fun k => k.opcode == b)

/-- `known(b)` of R55. -/
def known (b : Byte) : Bool := (kindOf b).isSome

/-- `plen(b)` of R55: defined only where `known b`. -/
def plen (b : Byte) : Option Nat := (kindOf b).map MessageKind.payloadLen

/-! ### `build` (R81) -/

/-- The `Build` line of R74 to R80 for one kind. A payload of another length builds nothing. -/
def MessageKind.build (k : MessageKind) (p : List Byte) : Option Instr :=
  match k with
  | .init =>
    match p with
    | [p0, p1] => some (.init (u16le p0 p1))
    | _ => none
  | .clear =>
    match p with
    | [] => some .clear
    | _ => none
  | .showPixels =>
    match p with
    | [] => some .showPixels
    | _ => none
  | .setPixel =>
    match p with
    | [p0, p1, p2, p3, p4] => some (.setPixel (u16le p0 p1) p2 p3 p4)
    | _ => none
  | .setClock =>
    match p with
    | [p0, p1, p2, p3] => some (.setClock (u32le p0 p1 p2 p3))
    | _ => none
  | .setAutoRender =>
    match p with
    | [p0] => some (.setAutoRender (byteBool p0))
    | _ => none
  | .suspendHost =>
    match p with
    | [p0, p1] => some (.suspendHost (u16le p0 p1))
    | _ => none

/-- `build(o, p)` of R81: defined for a known opcode `o` and a payload of length `plen o`. -/
def build (o : Byte) (p : List Byte) : Option Instr := (kindOf o).bind (fun k => k.build p)

/-! ### Decoding a byte sequence that begins in an opcode position -/

/-- Why a byte sequence is not (yet) an instruction. -/
inductive DecodeReject where
  /-- No byte, or fewer payload bytes than `plen` asks for: the Decoder goes on collecting (R90). -/
  | truncated
  /-- The first byte is an unknown opcode: a framing error (R57, R89). -/
  | unknownOpcode (b : Byte)
  deriving DecidableEq, Repr

/-- The first instruction of a byte sequence, and the bytes after it (R37, R55, R56, R57). Total. -/
def decode : List Byte → Except DecodeReject (Instr × List Byte)
  | [] => .error .truncated
  | o :: rest =>
    if o = resyncByte then .ok (.resync, rest)
    else
      match kindOf o with
      | none => .error (.unknownOpcode o)
      | some k =>
        match k.build (rest.take k.payloadLen) with
        | some i => .ok (i, rest.drop k.payloadLen)
        | none => .error .truncated

/-! ### The encoder (R73) -/

/-- `encode`: the `Encode` line of R74 to R80, and the resync byte for `RESYNC` (R60). -/
def encode : Instr → List Byte
  | .init n => MessageKind.init.opcode :: le16 n
  | .clear => [MessageKind.clear.opcode]
  | .showPixels => [MessageKind.showPixels.opcode]
  | .setPixel a r g b => MessageKind.setPixel.opcode :: (le16 a ++ [r, g, b])
  | .setClock t => MessageKind.setClock.opcode :: le32 t
  | .setAutoRender e => [MessageKind.setAutoRender.opcode, boolByte e]
  | .suspendHost s => MessageKind.suspendHost.opcode :: le16 s
  | .resync => [resyncByte]

/-! ### Words as spec/opcode_table.json numbers them -/

/-- The bytes of a table word, the first byte of the stream from the lowest bits, out to `MAX_MSG_LEN` bytes (R11);
bits from `nbits` up are zero. -/
def tableWordBytes (nbits w : Nat) : List Byte :=
  let v := w % 2 ^ nbits
  [BitVec.ofNat 8 v, BitVec.ofNat 8 (v / 2 ^ 8), BitVec.ofNat 8 (v / 2 ^ 16), BitVec.ofNat 8 (v / 2 ^ 24),
    BitVec.ofNat 8 (v / 2 ^ 32), BitVec.ofNat 8 (v / 2 ^ 40)]

/-- The instruction the decoder reads from a table word; none where it rejects. -/
def decodeTableWord (nbits w : Nat) : Option Instr :=
  match decode (tableWordBytes nbits w) with
  | .ok (i, _) => some i
  | .error _ => none

/-- The bytes of the first instruction of a table word: the opcode byte and its payload; the opcode byte alone where it
is the resync byte or unknown. -/
def tableWordInstrBytes (nbits w : Nat) : List Byte :=
  match tableWordBytes nbits w with
  | [] => []
  | o :: rest => o :: rest.take ((plen o).getD 0)

end Sys2Proof
end

