-- ==== Sys2Proof/Machine/Message.lean ====
section
/-! DEFINITION. `WireMessage` (R19): the tagged variant the Encoder takes and the Decoder emits. It has seven
constructors; the resync byte is not one of them. -/

namespace Sys2Proof.Machine

/-- A wire message (R19). -/
inductive WireMessage where
  | init (pixelCount : U16)
  | clear
  | showPixels
  | setPixel (addr : U16) (r g b : Byte)
  | setClock (unixTime : U32)
  | setAutoRender (enabled : Bool)
  | suspendHost (seconds : U16)
  deriving DecidableEq, Repr

/-- The instruction that carries a message. -/
def WireMessage.toInstr : WireMessage → Instr
  | .init n => .init n
  | .clear => .clear
  | .showPixels => .showPixels
  | .setPixel a r g b => .setPixel a r g b
  | .setClock t => .setClock t
  | .setAutoRender e => .setAutoRender e
  | .suspendHost s => .suspendHost s

/-- The message an instruction carries: none for the resync byte (R19). -/
def instrMessage : Instr → Option WireMessage
  | .init n => some (.init n)
  | .clear => some .clear
  | .showPixels => some .showPixels
  | .setPixel a r g b => some (.setPixel a r g b)
  | .setClock t => some (.setClock t)
  | .setAutoRender e => some (.setAutoRender e)
  | .suspendHost s => some (.suspendHost s)
  | .resync => none

/-- The kind of a message. -/
def WireMessage.kind : WireMessage → MessageKind
  | .init _ => .init
  | .clear => .clear
  | .showPixels => .showPixels
  | .setPixel _ _ _ _ => .setPixel
  | .setClock _ => .setClock
  | .setAutoRender _ => .setAutoRender
  | .suspendHost _ => .suspendHost

/-- The tag of a message, its opcode byte (R19). -/
def WireMessage.tag (m : WireMessage) : Byte := m.kind.opcode

/-- The Encoder: `encode(m)` of R73, pure and stateless (R28). -/
def encodeMessage (m : WireMessage) : List Byte := encode m.toInstr

/-- The encoded stream of a list of messages, in order (R39, R96). -/
def encodeMessages (ms : List WireMessage) : List Byte := ms.flatMap encodeMessage

/-- `zeros(n)` (R13). -/
def zeros (n : Nat) : List Byte := List.replicate n resyncByte

end Sys2Proof.Machine
end

