-- ==== Sys2Proof/Machine/State.lean ====
section
/-! DEFINITION. The state of the whole block: the device's Decoder (R20), the host's HostLink controller (R26), the
parameters of the run (R8, R10, R25), the outputs of the last step (R15), the logs of events (R108), the consumer's received sequence
(R84), and the inputs the environment presents next (R16, R35, R93). INVENTORY.md lists every field. -/

namespace Sys2Proof.Machine

/-- `DecoderState` (R20): idle when `op` is none, collecting `o` when it is `some o`. -/
structure Decoder where
  /-- The opcode being collected, if any. -/
  op : Option Byte
  /-- The payload bytes received so far, in arrival order (R23: no slot beyond them exists; log entry 15). -/
  acc : List Byte
  /-- The payload bytes still expected. -/
  rem : Nat
  deriving DecidableEq, Repr

/-- The Decoder's reset value (R22): Idle, nothing collected, nothing expected. -/
def Decoder.idle : Decoder := { op := none, acc := [], rem := 0 }

/-- The outputs of a Decoder step (R15). They hold only for the step that produces them (R30): every step of the model
begins by clearing them. -/
structure Outputs where
  /-- The message the step completed, if any. -/
  msg : Option WireMessage
  /-- The byte of the framing error the step detected, if any. -/
  ferr : Option Byte
  deriving DecidableEq, Repr

/-- No output. -/
def Outputs.none : Outputs := { msg := Option.none, ferr := Option.none }

/-- The HostLink controller's `link` field (R26). -/
inductive Link where
  /-- `Closed`. -/
  | closed
  /-- `Open`: sends are allowed. -/
  | opened
  /-- `Failed`: a fatal link error was surfaced. -/
  | failed
  deriving DecidableEq, Repr

/-- Where the host's one thread stands (R3; DEDUCED, log entry 5): between operations, or in an operation that waits for
the environment's answer to the primitive it has issued (R97, R99 to R102). `bs` is the encoded message of the `send` in
progress. -/
inductive HostThread where
  /-- No operation is in progress. -/
  | ready
  /-- `open()` waits for `LinkOpen` (R97). -/
  | opening
  /-- `send` waits for its first `LinkWrite(bs)` (R99). -/
  | writing (bs : List Byte)
  /-- Recovery step 1 waits for `LinkOpen` (R100). -/
  | reopening (bs : List Byte)
  /-- Recovery step 2 waits for `LinkWrite(zeros(RESYNC_LEN))` (R101). -/
  | resyncing (bs : List Byte)
  /-- Recovery step 3 waits for the second `LinkWrite(bs)` (R102). -/
  | retrying (bs : List Byte)
  deriving DecidableEq, Repr

/-- The operand a mapper operation rejects (R17, R113). -/
inductive MapperOperand where
  /-- Of `to_physical` (R66). -/
  | coordinate (x y : U16)
  /-- Of `to_logical` (R69). -/
  | address (a : U16)
  deriving DecidableEq, Repr

/-- The events of R108. -/
inductive Event where
  /-- Code 1, of the Decoder (R110). -/
  | framingError (b : Byte)
  /-- Code 2, of the HostLink controller (R111). -/
  | linkWriteTimeout
  /-- Code 3, of the HostLink controller (R112). -/
  | fatalLinkError
  /-- Code 4, of the CoordinateMapper (R113). -/
  | mapperRange (v : MapperOperand)
  deriving DecidableEq, Repr

/-- What an operation of the host returns to its caller. -/
inductive Return where
  /-- `Ok` of `open` and `send` (R97, R103), and of the load of the configuration. -/
  | ok
  /-- `FatalLinkError` of `open` and `send` (R97, R103). -/
  | fatalLinkError
  /-- The result of `to_physical` (R66). -/
  | address (a : U16)
  /-- The result of `to_logical` (R69). -/
  | coordinate (x y : U16)
  /-- The fault `MapperRange` in place of a result (R17). -/
  | mapperRange (v : MapperOperand)
  deriving DecidableEq, Repr

/-- An operation that the host's caller starts. -/
inductive HostCall where
  /-- The load of the run's configuration at startup (R25, R127). It carries no value: the configuration is a parameter
  of the run. -/
  | loadConfiguration
  /-- `open()` (R97). -/
  | openLink
  /-- `send(m)` (R99). -/
  | send (m : WireMessage)
  /-- `to_physical(x, y)` (R66). -/
  | toPhysical (x y : U16)
  /-- `to_logical(a)` (R69). -/
  | toLogical (a : U16)
  deriving DecidableEq, Repr

/-- The environment's answer to a link primitive (R16). `LinkClose` always completes and needs none. -/
inductive Answer where
  /-- `LinkWrite` answered `Ok`. -/
  | writeOk
  /-- `LinkWrite` answered `Timeout(k)`: the first `k` bytes may have been delivered. -/
  | writeTimeout (k : Nat)
  /-- `LinkOpen` answered `Ok`. -/
  | openOk
  /-- `LinkOpen` answered `Fail`. -/
  | openFail
  deriving DecidableEq, Repr

/-- One thing the outside world does to the block. -/
inductive Input where
  /-- A device read delivers these bytes, possibly none (R35, R46, R92). The Decoder takes one a step (R85). -/
  | read (chunk : List Byte)
  /-- The Decoder's `rst` input is asserted (R93). -/
  | rst
  /-- The host's caller starts an operation. -/
  | call (c : HostCall)
  /-- The environment answers the primitive the host waits for (R16). -/
  | answer (a : Answer)
  /-- The host process starts anew (R126, R133; DESIGN CHOICE, log entry 10). -/
  | hostStart
  deriving DecidableEq, Repr

/-- The parameters of the whole run: the OPEN ones of the platform (R8, R10) and the configuration (R25). No step writes
them. -/
structure Params where
  /-- `RESYNC_LEN` (R8). -/
  resyncLen : Nat
  /-- `DEVICE_SEES_REOPEN` (R10). -/
  deviceSeesReopen : Bool
  /-- `ROWS`, `COLUMNS` and `ROT` (R24). -/
  geometry : Geometry
  deriving DecidableEq, Repr

/-- The machine's whole state. -/
structure State where
  /-- The parameters of the run (R8, R10, R24, R25), read-only. -/
  params : Params
  /-- Device: the Decoder (R20). -/
  dec : Decoder
  /-- Device: the outputs of the last step (R15). -/
  out : Outputs
  /-- Device: the framing errors so far, oldest first (the `es` of R92). -/
  deviceLog : List Event
  /-- The consumer: the messages it has received, oldest first (R84; the `ms` of R92; log entry 11). -/
  consumer : List WireMessage
  /-- Host: the link's condition (R26). -/
  link : Link
  /-- Host: whether the host process has loaded the configuration (R127; the model's own, log entry 6). -/
  loaded : Bool
  /-- Host: where its thread stands (R3). -/
  thread : HostThread
  /-- Host: what the last step returned to the caller, if it ended an operation. -/
  ret : Option Return
  /-- Host: its events so far, oldest first (R108). -/
  hostLog : List Event
  /-- Host: the writes it has issued to the link, oldest first (R16). -/
  written : List (List Byte)
  /-- The environment's inputs, the next one first (DESIGN CHOICE, log entry 8). -/
  inputs : List Input
  deriving DecidableEq, Repr

/-- Why the machine stops with a fault. -/
inductive Fault where
  /-- Raised by `deviceByte` on a `DecoderState` that breaks the invariant of R21, for which no rule of R86 to R91
  has a case (log entry 14). Safe: R21 says no run from reset reaches one, and the invariant is a statement of this package. -/
  | decoderStateOutsideInvariant
  deriving DecidableEq, Repr

/-- Why the machine has no step. A refusal stops both agents (DESIGN CHOICE, safe: log entry 7). -/
inductive Refusal where
  /-- Raised by `exec` for an instruction that has no meaning yet. Safe: nothing is claimed of it. -/
  | notModelled (mnemonic : String)
  /-- Raised by `hostCall` where the run's configuration lies outside the ranges of R24, at its load and at each
  operation that needs it (R24, R62, R128). Safe: the spec itself has no step. -/
  | illegalConfiguration
  /-- Raised by `hostCall` for a mapper operation (R127), and for `open` and `send` (R128), before the configuration is
  loaded. Safe: the spec itself has no step. -/
  | configurationNotLoaded
  /-- Raised by `hostCall` for a second load by one host process: the configuration is loaded once (R25, R127;
  log entry 6). Safe: the spec gives no such step. -/
  | configurationAlreadyLoaded
  /-- Raised by `hostCall` for `open` while `link` is not `Closed` (R97). Safe: the spec itself has no step. -/
  | openWhileNotClosed
  /-- Raised by `hostCall` for `send` while `link` is not `Open` (R98). Safe: the spec itself has no step. -/
  | sendWhileNotOpen
  /-- Raised by `hostCall` for a call while an operation is in progress: the host has one thread and no two operations
  overlap (R3, R99). Safe: the spec excludes such a call. -/
  | hostThreadBusy
  /-- Raised by `hostAnswer` for an answer that the pending primitive does not have, or `Timeout(k)` with `k` above the
  length written (R16). Safe: the spec excludes such an answer. -/
  | answerOutsideContract
  deriving DecidableEq, Repr

/-- The machine right after reset (R33): the Decoder Idle, no outputs, `link = Closed`, the configuration not loaded.
The parameters are the run's own, unknown (log entries 1 and 6); the logs are empty and no input waits (log entry 3). -/
def State.reset : State where
  params :=
    { resyncLen := Config.resyncLen
      deviceSeesReopen := Config.deviceSeesReopen
      geometry := Config.geometry }
  dec := Decoder.idle
  out := Outputs.none
  deviceLog := []
  consumer := []
  link := .closed
  loaded := false
  thread := .ready
  ret := none
  hostLog := []
  written := []
  inputs := []

end Sys2Proof.Machine
end

