-- ==== Sys2Proof/Machine/Decoder.lean ====
section
/-! DEFINITION. The Decoder (spec/42_decoder.md): what one byte does to a `DecoderState`. `action` is the case analysis
of R86 to R91; the machine's step runs the instruction that a completing byte names. `feed` is the whole of R85 as a
pure function, and `feedChunk` its fold (R92). -/

namespace Sys2Proof.Machine

/-- What the next byte makes the Decoder do. -/
inductive FeedAction where
  /-- The byte completes an instruction, which runs in this step (R86, R87, R91). -/
  | run (i : Instr)
  /-- The byte is taken and the Decoder goes on collecting in this state (R88, R90). -/
  | collect (d : Decoder)
  /-- The byte is an unknown opcode (R89). -/
  | framingError (b : Byte)
  /-- No rule applies: the state breaks the invariant of R21. -/
  | noRule
  deriving DecidableEq, Repr

/-- A byte in the opcode position (R86 to R89). -/
def opcodeAction (b : Byte) : FeedAction :=
  if b = resyncByte then .run .resync
  else
    match plen b with
    | none => .framingError b
    | some 0 =>
      match build b [] with
      | some i => .run i
      | none => .noRule
    | some (n + 1) => .collect { op := some b, acc := [], rem := n + 1 }

/-- A byte in a payload position (R90, R91): every value is data (R58). -/
def payloadAction (o : Byte) (acc : List Byte) : Nat → Byte → FeedAction
  | 0, _ => .noRule
  | 1, b =>
    match build o (acc ++ [b]) with
    | some i => .run i
    | none => .noRule
  | n + 2, b => .collect { op := some o, acc := acc ++ [b], rem := n + 1 }

/-- The case of R86 to R91 that a state and a byte fall under. -/
def Decoder.action (d : Decoder) (b : Byte) : FeedAction :=
  match d.op with
  | none => opcodeAction b
  | some o => payloadAction o d.acc d.rem b

/-- The invariant of R21: in Idle nothing is collected or expected; in `Collecting(o)` the opcode has a payload,
something is expected, and `len(acc) + rem = plen(o)`. -/
def Decoder.wf (d : Decoder) : Bool :=
  match d.op with
  | none => decide (d.acc = []) && decide (d.rem = 0)
  | some o => decide (1 ≤ d.rem) && decide (plen o = some (d.acc.length + d.rem))

/-- The bytes of the message in progress: the opcode and the payload so far. Empty in Idle. -/
def Decoder.collected (d : Decoder) : List Byte := d.op.toList ++ d.acc

/-- The result of `feed` (R85): the next state and the two outputs (R15). -/
structure FeedResult where
  dec : Decoder
  msg : Option WireMessage
  ferr : Option Byte
  deriving DecidableEq, Repr

/-- `feed(s, b)` of R85. None only where no rule applies, in a state that breaks R21. -/
def feed (d : Decoder) (b : Byte) : Option FeedResult :=
  match d.action b with
  | .run .resync => some { dec := d, msg := none, ferr := none }
  | .run i => some { dec := Decoder.idle, msg := instrMessage i, ferr := none }
  | .collect d' => some { dec := d', msg := none, ferr := none }
  | .framingError e => some { dec := Decoder.idle, msg := none, ferr := some e }
  | .noRule => none

/-- The result of `feed_chunk` (R92): the final state, the messages and the framing errors in byte order. -/
structure ChunkResult where
  dec : Decoder
  msgs : List WireMessage
  ferrs : List Byte
  deriving DecidableEq, Repr

/-- `feed_chunk(s, c)` of R92: the left fold of `feed`. -/
def feedChunk (d : Decoder) : List Byte → Option ChunkResult
  | [] => some { dec := d, msgs := [], ferrs := [] }
  | b :: c =>
    match feed d b with
    | none => none
    | some r1 =>
      match feedChunk r1.dec c with
      | none => none
      | some r2 =>
        some { dec := r2.dec, msgs := r1.msg.toList ++ r2.msgs, ferrs := r1.ferr.toList ++ r2.ferrs }

/-- Several chunks fed in turn (R94). -/
def feedChunks (d : Decoder) : List (List Byte) → Option ChunkResult
  | [] => some { dec := d, msgs := [], ferrs := [] }
  | c :: cs =>
    match feedChunk d c with
    | none => none
    | some r1 =>
      match feedChunks r1.dec cs with
      | none => none
      | some r2 => some { dec := r2.dec, msgs := r1.msgs ++ r2.msgs, ferrs := r1.ferrs ++ r2.ferrs }

/-- The Decoder's state after bytes that only collect: where it stands before a message's last byte. -/
def Decoder.collectBytes (d : Decoder) (bs : List Byte) : Decoder :=
  bs.foldl (fun d b => match d.action b with | .collect d' => d' | _ => d) d

end Sys2Proof.Machine
end

