-- ==== Sys2Proof/Machine/Ops.lean ====
section
/-! DEFINITION. The named operations over the state that the meanings share. The block has no memory and no register
file (R30, R34); what a step may write are the Decoder, its outputs, the logs, the link and the host's thread. -/

namespace Sys2Proof.Machine

/-- The start of every step: the environment's remaining inputs, and the last step's outputs gone (R15, R30). -/
def State.takeInput (s : State) (rest : List Input) : State :=
  { s with inputs := rest, out := Outputs.none, ret := none }

/-- The event codes (R108, D17): labels of the model's outputs, never on the wire. -/
def Event.code : Event → Nat
  | .framingError _ => 1
  | .linkWriteTimeout => 2
  | .fatalLinkError => 3
  | .mapperRange _ => 4

/-- Reporting an event: the block's one form of exception (R108, R109). The unit that detects the event logs it in the
step that detects it; no state is saved, no handler runs and nothing is rolled back. A framing error is also the
Decoder's output `ferr` (R15, R110). -/
def State.raiseEvent (s : State) : Event → State
  | .framingError b =>
    { s with out := { msg := none, ferr := some b }, deviceLog := s.deviceLog ++ [.framingError b] }
  | .linkWriteTimeout => { s with hostLog := s.hostLog ++ [.linkWriteTimeout] }
  | .fatalLinkError => { s with hostLog := s.hostLog ++ [.fatalLinkError] }
  | .mapperRange v => { s with hostLog := s.hostLog ++ [.mapperRange v] }

/-- A Decoder step that only changes the Decoder's state (R88, R90). -/
def State.setDecoder (s : State) (d : Decoder) : State :=
  { s with dec := d }

/-- `emit m` (R15): the message is the step's output and the consumer receives it (R84); the Decoder is reset to Idle
after a complete message (R87, R91). -/
def State.emitMessage (s : State) (m : WireMessage) : State :=
  { s with dec := Decoder.idle, out := { msg := some m, ferr := none }, consumer := s.consumer ++ [m] }

/-- The Decoder's `rst` input (R93, R125): the reset value of R22, any partial message discarded, no output. -/
def State.assertRst (s : State) : State :=
  { s with dec := Decoder.idle, out := Outputs.none }

/-- The host operation in progress ends and returns `r` to its caller. -/
def State.finish (s : State) (r : Return) : State :=
  { s with thread := .ready, ret := some r }

/-- The host writes `bs` to the link (`LinkWrite` of R16) and waits at `t` for the answer. -/
def State.issueWrite (s : State) (bs : List Byte) (t : HostThread) : State :=
  { s with written := s.written ++ [bs], thread := t }

/-- `LinkOpen` was answered `Ok` (R97, R100): the link is open, and the device's Decoder is reset where the device
sees the opening (R10, R93; for the opening at boot DEDUCED, unsafe: log entry 4). -/
def State.linkOpened (s : State) : State :=
  { s with link := .opened, dec := if s.params.deviceSeesReopen then Decoder.idle else s.dec }

/-- The fatal path (R97, R100 to R102, R112): `link <- Failed`, the event, and its return to the caller. -/
def State.failFatally (s : State) : State :=
  ({ s with link := .failed }.raiseEvent .fatalLinkError).finish .fatalLinkError

/-- The host process starts (R126, R133): the HostLink controller at its reset value, the run's configuration not yet
loaded by the new process (R127; log entry 6), no operation in progress. The device is another agent and is untouched (R3). -/
def State.restartHost (s : State) : State :=
  { s with link := .closed, loaded := false, thread := .ready, ret := none }

end Sys2Proof.Machine
end

