-- ==== Sys2Proof/Machine/Messages.lean ====
section
/-! DEFINITION. The meaning of each instruction: what the step that takes its last byte does (R86, R87, R91, with the
`Build` lines of R74 to R80). The device-side effect that the "Meaning" lines quote is the consumer's, outside the block
(R5, R84); the block's whole effect is to hand the message over and to be Idle again. -/

namespace Sys2Proof.Machine

/-- `Init` (R74, R91). -/
def execInit (n : U16) (s : State) : Host.Outcome State Fault Refusal :=
  .next (s.emitMessage (.init n))

/-- `Clear` (R75, R87). -/
def execClear (s : State) : Host.Outcome State Fault Refusal :=
  .next (s.emitMessage .clear)

/-- `Show` (R76, R87). -/
def execShow (s : State) : Host.Outcome State Fault Refusal :=
  .next (s.emitMessage .showPixels)

/-- `SetPixel` (R77, R91): any address, in range or not (R83). -/
def execSetPixel (a : U16) (r g b : Byte) (s : State) : Host.Outcome State Fault Refusal :=
  .next (s.emitMessage (.setPixel a r g b))

/-- `SetClock` (R78, R91). -/
def execSetClock (t : U32) (s : State) : Host.Outcome State Fault Refusal :=
  .next (s.emitMessage (.setClock t))

/-- `SetAutoRender` (R79, R91). -/
def execSetAutoRender (e : Bool) (s : State) : Host.Outcome State Fault Refusal :=
  .next (s.emitMessage (.setAutoRender e))

/-- `SuspendHost` (R80, R91). -/
def execSuspendHost (d : U16) (s : State) : Host.Outcome State Fault Refusal :=
  .next (s.emitMessage (.suspendHost d))

/-- `RESYNC` (R56, R86): no output, and the Decoder's state is left as it is. -/
def execResync (s : State) : Host.Outcome State Fault Refusal :=
  .next { s with out := Outputs.none }

end Sys2Proof.Machine
end

