-- ==== Sys2Proof/Machine/Dispatch.lean ====
section
/-! DEFINITION. The meaning of each instruction, by its constructor. -/

namespace Sys2Proof.Machine

def exec (i : Instr) (s : State) : Host.Outcome State Fault Refusal :=
  match i with
  | .init n => Sys2Proof.Machine.execInit n s
  | .clear => Sys2Proof.Machine.execClear s
  | .showPixels => Sys2Proof.Machine.execShow s
  | .setPixel a r g b => Sys2Proof.Machine.execSetPixel a r g b s
  | .setClock t => Sys2Proof.Machine.execSetClock t s
  | .setAutoRender e => Sys2Proof.Machine.execSetAutoRender e s
  | .suspendHost d => Sys2Proof.Machine.execSuspendHost d s
  | .resync => Sys2Proof.Machine.execResync s

end Sys2Proof.Machine
end

