-- ==== Sys2Proof/Machine/Device.lean ====
section
/-! DEFINITION. The device agent: one received byte is one Decoder step (R34, R85). -/

namespace Sys2Proof.Machine

/-- The Decoder step on the byte `b`: run the instruction that the byte completes, go on collecting, or report a
framing error and drop the byte, the Decoder staying Idle (R86 to R91). -/
def deviceByte (b : Byte) (s : State) : Host.Outcome State Fault Refusal :=
  match s.dec.action b with
  | .run i => exec i s
  | .collect d => .next (s.setDecoder d)
  | .framingError e => .next ((s.setDecoder Decoder.idle).raiseEvent (.framingError e))
  | .noRule => .fault .decoderStateOutsideInvariant

/-- What is left of a read once its first byte is taken, in front of the other inputs. -/
def readRest : List Byte → List Input → List Input
  | [], rest => rest
  | b :: c, rest => .read (b :: c) :: rest

/-- A device read (R46, R92): its first byte is fed, the others wait in order; a read of no bytes is no Decoder step. -/
def deviceRead (chunk : List Byte) (rest : List Input) (s : State) : Host.Outcome State Fault Refusal :=
  match chunk with
  | [] => .next (s.takeInput rest)
  | b :: c => deviceByte b (s.takeInput (readRest c rest))

end Sys2Proof.Machine
end

