-- ==== Sys2Proof/Machine/Mapper.lean ====
section
/-! DEFINITION. The CoordinateMapper (spec/40_coordinate_mapper.md): pure functions of their operands and of the
configuration (R29). The arithmetic is on natural numbers (R12). -/

namespace Sys2Proof

/-- The encoding of the rotation (R7, D12). -/
def Rotation.ofBits (b : BitVec 2) : Rotation :=
  if b = 0#2 then .deg0 else if b = 1#2 then .deg90 else if b = 2#2 then .deg180 else .deg270

namespace Geometry

/-- The rotation the configuration names. -/
def rotation (g : Geometry) : Rotation := Rotation.ofBits g.rot

/-- `R`. -/
def R (g : Geometry) : Nat := g.rows.toNat

/-- `C`. -/
def C (g : Geometry) : Nat := g.columns.toNat

/-- `NUM = ROWS*COLUMNS` (R41). -/
def num (g : Geometry) : Nat := g.R * g.C

/-- The legal configurations (R24, R62): `1 <= R`, `1 <= C`, `R*C <= 65535`; every 2-bit rotation is legal. -/
def legal (g : Geometry) : Bool :=
  decide (1 ≤ g.R) && decide (1 ≤ g.C) && decide (g.num ≤ 65535)

/-- The logical width `W` (R63). -/
def W (g : Geometry) : Nat :=
  match g.rotation with
  | .deg0 => g.C
  | .deg90 => g.R
  | .deg180 => g.C
  | .deg270 => g.R

/-- The logical height `H` (R63). -/
def H (g : Geometry) : Nat :=
  match g.rotation with
  | .deg0 => g.R
  | .deg90 => g.C
  | .deg180 => g.R
  | .deg270 => g.C

/-- A valid logical coordinate (R63); also the test R71 asks of the caller. -/
def valid (g : Geometry) (x y : Nat) : Bool := decide (x < g.W) && decide (y < g.H)

/-- `rotate(x, y)` of R64: the physical column and row (for a non-square panel the spec's own decision D13, log
entry 12). -/
def rotate (g : Geometry) (x y : Nat) : Nat × Nat :=
  match g.rotation with
  | .deg0 => (x, y)
  | .deg90 => (g.C - 1 - y, x)
  | .deg180 => (g.C - 1 - x, g.R - 1 - y)
  | .deg270 => (y, g.R - 1 - x)

/-- `serp(pc, pr)` of R65. -/
def serp (g : Geometry) (pc pr : Nat) : Nat :=
  pc * g.R + (if pc % 2 = 0 then pr else g.R - 1 - pr)

/-- `unserp(a)` of R67. -/
def unserp (g : Geometry) (a : Nat) : Nat × Nat :=
  (a / g.R, if (a / g.R) % 2 = 0 then a % g.R else g.R - 1 - a % g.R)

/-- `unrotate(pc, pr)` of R68. -/
def unrotate (g : Geometry) (pc pr : Nat) : Nat × Nat :=
  match g.rotation with
  | .deg0 => (pc, pr)
  | .deg90 => (pr, g.C - 1 - pc)
  | .deg180 => (g.C - 1 - pc, g.R - 1 - pr)
  | .deg270 => (g.R - 1 - pr, pc)

/-- `to_physical(x, y)` of R66, under a legal configuration: an address, or the rejected operand of `MapperRange`. -/
def toPhysical (g : Geometry) (x y : U16) : Except Machine.MapperOperand U16 :=
  if g.valid x.toNat y.toNat then
    .ok (BitVec.ofNat 16 (g.serp (g.rotate x.toNat y.toNat).1 (g.rotate x.toNat y.toNat).2))
  else .error (.coordinate x y)

/-- `to_logical(a)` of R69, under a legal configuration: a coordinate, or the rejected operand of `MapperRange`. -/
def toLogical (g : Geometry) (a : U16) : Except Machine.MapperOperand (U16 × U16) :=
  if a.toNat < g.num then
    .ok (BitVec.ofNat 16 (g.unrotate (g.unserp a.toNat).1 (g.unserp a.toNat).2).1,
      BitVec.ofNat 16 (g.unrotate (g.unserp a.toNat).1 (g.unserp a.toNat).2).2)
  else .error (.address a)

end Geometry

end Sys2Proof
end

