-- ==== Sys2Proof/Machine/HostLink.lean ====
section
/-! DEFINITION. The host agent: the operations its caller starts, and the HostLink controller's sequence of `open`,
`send` and recovery, one primitive of the link a step (spec/43_host_link.md). -/

namespace Sys2Proof.Machine

/-- The load of the run's configuration (R24, R25, R127): once, and only a legal one. No step changes its value. -/
def loadConfiguration (s : State) : Host.Outcome State Fault Refusal :=
  if s.loaded then .refused .configurationAlreadyLoaded
  else if s.params.geometry.legal then .next ({ s with loaded := true }.finish .ok)
  else .refused .illegalConfiguration

/-- The first condition of the boot order, "configuration loaded and legal" (R128): a mapper operation (R62, R127),
`open` and `send` need it. -/
def withConfiguration (s : State) (f : Geometry → Host.Outcome State Fault Refusal) :
    Host.Outcome State Fault Refusal :=
  if s.loaded then
    if s.params.geometry.legal then f s.params.geometry else .refused .illegalConfiguration
  else .refused .configurationNotLoaded

/-- The fault of a mapper operation (R17, R113): the event with the rejected operand, returned in place of a result. -/
def mapperFault (v : MapperOperand) (s : State) : State :=
  (s.raiseEvent (.mapperRange v)).finish (.mapperRange v)

/-- `to_physical` as a port transaction of the host (R66). -/
def callToPhysical (x y : U16) (s : State) : Host.Outcome State Fault Refusal :=
  withConfiguration s fun g =>
    match g.toPhysical x y with
    | .ok a => .next (s.finish (.address a))
    | .error v => .next (mapperFault v s)

/-- `to_logical` as a port transaction of the host (R69). -/
def callToLogical (a : U16) (s : State) : Host.Outcome State Fault Refusal :=
  withConfiguration s fun g =>
    match g.toLogical a with
    | .ok (x, y) => .next (s.finish (.coordinate x y))
    | .error v => .next (mapperFault v s)

/-- `open()` issues `LinkOpen` (R97), after the configuration is loaded (R128). -/
def callOpen (s : State) : Host.Outcome State Fault Refusal :=
  match s.link with
  | .closed => withConfiguration s fun _ => .next { s with thread := .opening }
  | .opened => .refused .openWhileNotClosed
  | .failed => .refused .openWhileNotClosed

/-- `send(m)` encodes the message and issues its first `LinkWrite` (R98, R99), after the configuration is loaded
(R128). -/
def callSend (m : WireMessage) (s : State) : Host.Outcome State Fault Refusal :=
  match s.link with
  | .opened => withConfiguration s fun _ => .next (s.issueWrite (encodeMessage m) (.writing (encodeMessage m)))
  | .closed => .refused .sendWhileNotOpen
  | .failed => .refused .sendWhileNotOpen

/-- The host's caller starts an operation. No two operations overlap (R3). None of them writes the resync run at start:
R133 says that a host may first write `RECOVERY`, and the spec gives no operation for it and no outcome of its timeout,
so the resync run is written only inside a `send` (DESIGN CHOICE, unsafe: log entry 17). -/
def hostCall (c : HostCall) (s : State) : Host.Outcome State Fault Refusal :=
  match s.thread with
  | .ready =>
    match c with
    | .loadConfiguration => loadConfiguration s
    | .openLink => callOpen s
    | .send m => callSend m s
    | .toPhysical x y => callToPhysical x y s
    | .toLogical a => callToLogical a s
  | .opening => .refused .hostThreadBusy
  | .writing _ => .refused .hostThreadBusy
  | .reopening _ => .refused .hostThreadBusy
  | .resyncing _ => .refused .hostThreadBusy
  | .retrying _ => .refused .hostThreadBusy

/-- The answer to the `LinkOpen` of `open()` (R97). -/
def answerOpening (a : Answer) (s : State) : Host.Outcome State Fault Refusal :=
  match a with
  | .openOk => .next (s.linkOpened.finish .ok)
  | .openFail => .next s.failFatally
  | .writeOk => .refused .answerOutsideContract
  | .writeTimeout _ => .refused .answerOutsideContract

/-- A `Timeout(k)` on a write of `bs` is an answer of R16 only for `k <= len(bs)`. -/
def timeoutStep (bs : List Byte) (k : Nat) (t : State) : Host.Outcome State Fault Refusal :=
  if k ≤ bs.length then .next t else .refused .answerOutsideContract

/-- The answer to the first write of a `send` (R99); a timeout begins recovery by raising `LinkWriteTimeout`, closing
the link and issuing `LinkOpen` (R100, R111). -/
def answerWriting (bs : List Byte) (a : Answer) (s : State) : Host.Outcome State Fault Refusal :=
  match a with
  | .writeOk => .next (s.finish .ok)
  | .writeTimeout k =>
    timeoutStep bs k { s.raiseEvent .linkWriteTimeout with link := .closed, thread := .reopening bs }
  | .openOk => .refused .answerOutsideContract
  | .openFail => .refused .answerOutsideContract

/-- The answer to recovery's `LinkOpen` (R100); once open, the resync run is written (R101). -/
def answerReopening (bs : List Byte) (a : Answer) (s : State) : Host.Outcome State Fault Refusal :=
  match a with
  | .openOk => .next (s.linkOpened.issueWrite (zeros s.params.resyncLen) (.resyncing bs))
  | .openFail => .next s.failFatally
  | .writeOk => .refused .answerOutsideContract
  | .writeTimeout _ => .refused .answerOutsideContract

/-- The answer to the write of the resync run (R101); once written, the message is written again (R102). -/
def answerResyncing (bs : List Byte) (a : Answer) (s : State) : Host.Outcome State Fault Refusal :=
  match a with
  | .writeOk => .next (s.issueWrite bs (.retrying bs))
  | .writeTimeout k => timeoutStep (zeros s.params.resyncLen) k s.failFatally
  | .openOk => .refused .answerOutsideContract
  | .openFail => .refused .answerOutsideContract

/-- The answer to the single retransmission (R102). -/
def answerRetrying (bs : List Byte) (a : Answer) (s : State) : Host.Outcome State Fault Refusal :=
  match a with
  | .writeOk => .next (s.finish .ok)
  | .writeTimeout k => timeoutStep bs k s.failFatally
  | .openOk => .refused .answerOutsideContract
  | .openFail => .refused .answerOutsideContract

/-- The environment answers the primitive the host waits for (R16). -/
def hostAnswer (a : Answer) (s : State) : Host.Outcome State Fault Refusal :=
  match s.thread with
  | .ready => .refused .answerOutsideContract
  | .opening => answerOpening a s
  | .writing bs => answerWriting bs a s
  | .reopening bs => answerReopening bs a s
  | .resyncing bs => answerResyncing bs a s
  | .retrying bs => answerRetrying bs a s

end Sys2Proof.Machine
end

