-- ==== Sys2Proof/Machine/Inputs.lean ====
section
/-! DEFINITION. What one input of the environment makes the block do: the agent it reaches takes its step, and the
other agent's state is left alone but for `rst` at an opening the device sees (R3, R10, R121). -/

namespace Sys2Proof.Machine

/-- The step on the input `i`, with the inputs `rest` after it. -/
def runInput (i : Input) (rest : List Input) (s : State) : Host.Outcome State Fault Refusal :=
  match i with
  | .read chunk => deviceRead chunk rest s
  | .rst => .next (s.takeInput rest).assertRst
  | .call c => hostCall c (s.takeInput rest)
  | .answer a => hostAnswer a (s.takeInput rest)
  | .hostStart => .next (s.takeInput rest).restartHost

/-- The step where no input waits: both agents wait, nothing is written, and the last step's outputs are gone (R15,
R46: a read that delivers no bytes causes no Decoder step). -/
def waitForInput (s : State) : Host.Outcome State Fault Refusal := .next (s.takeInput [])

/-- `s` with the bytes of a table word's first instruction received up to its last byte, and that byte the next input:
the next step takes it and runs the instruction. -/
def placeTableWord (s : State) (nbits w : Nat) : State :=
  { s with
    dec := Decoder.idle.collectBytes (tableWordInstrBytes nbits w).dropLast
    inputs := (tableWordInstrBytes nbits w).getLast?.toList.map (fun b => Input.read [b]) ++ s.inputs }

end Sys2Proof.Machine
end

