-- ==== Sys2Proof/Machine/Step.lean ====
section
/-! DEFINITION. One step of the block: the next input of the environment reaches its agent. -/

namespace Sys2Proof.Machine

/-- The step. Which agent moves is data: the head of `inputs` (DESIGN CHOICE, safe: log entry 8). -/
def step (s : State) : Host.Outcome State Fault Refusal :=
  match s.inputs with
  | [] => waitForInput s
  | i :: rest => runInput i rest s

/-- `s` with the instruction of a table word where the next step takes it. One step consumes one byte (R85), so the
bytes before the last stand as already received (DESIGN CHOICE, safe: log entry 2). -/
def State.withFetchWord (s : State) (nbits w : Nat) : State := placeTableWord s nbits w

end Sys2Proof.Machine
end

