-- ==== Sys2Proof/Machine/Stream.lean ====
section
/-! DEFINITION. The notation of R59 and R60 for byte streams: message lines, and the pseudo-forms `RESYNC n`,
`.byte` and `RECOVERY`, with what each expands to. -/

namespace Sys2Proof.Machine

/-- The message a well-formed term of R59 writes; none where an operand does not fit its width. -/
def assembleTerm (t : MessageTerm) : Option WireMessage :=
  if t.wellFormed then
    match t with
    | .init n => some (.init (BitVec.ofNat 16 n))
    | .clear => some .clear
    | .showPixels => some .showPixels
    | .setPixel a r g b =>
      some (.setPixel (BitVec.ofNat 16 a) (BitVec.ofNat 8 r) (BitVec.ofNat 8 g) (BitVec.ofNat 8 b))
    | .setClock t => some (.setClock (BitVec.ofNat 32 t))
    | .setAutoRender e => some (.setAutoRender e)
    | .suspendHost s => some (.suspendHost (BitVec.ofNat 16 s))
  else none

/-- One line of a stream (R59, R60). -/
inductive StreamLine where
  /-- A message line. -/
  | message (m : WireMessage)
  /-- `RESYNC <n>`. -/
  | resyncRun (n : Nat)
  /-- `.byte <b0>, <b1>, ...`. -/
  | rawBytes (bs : List Byte)
  /-- `RECOVERY`. -/
  | recovery
  deriving DecidableEq, Repr

/-- What a line expands to, given `RESYNC_LEN` (R60). -/
def StreamLine.expand (resyncLen : Nat) : StreamLine → List Byte
  | .message m => encodeMessage m
  | .resyncRun n => zeros n
  | .rawBytes bs => bs
  | .recovery => zeros resyncLen

/-- A stream is the concatenation of the expansions of its lines, in order (R60). -/
def expandStream (resyncLen : Nat) (lines : List StreamLine) : List Byte :=
  lines.flatMap (StreamLine.expand resyncLen)

end Sys2Proof.Machine
end

