-- ==== Sys2Proof/Safety.lean ====
section
/-! DEFINITION. What a safe run is, in the terms the statements use: the invariant of the state, the premise of faithful
delivery (R35), and runs of the machine. -/

namespace Sys2Proof.Machine

/-- The host's thread agrees with the link (R97 to R102), and the bytes of a `send` in progress are one encoded
message. -/
def threadAgrees (l : Link) : HostThread → Prop
  | .ready => True
  | .opening => l = .closed
  | .writing bs => l = .opened ∧ ∃ m, bs = encodeMessage m
  | .reopening bs => l = .closed ∧ ∃ m, bs = encodeMessage m
  | .resyncing bs => l = .opened ∧ ∃ m, bs = encodeMessage m
  | .retrying bs => l = .opened ∧ ∃ m, bs = encodeMessage m

/-- The invariant of the whole state: R21 for the Decoder, R24 for a loaded configuration, the boot order of R128 (the
link has left `Closed`, or is being opened, only once the configuration is loaded), R8 for `RESYNC_LEN`, R15 for the
outputs, and the host's thread in step with its link. -/
structure State.Inv (s : State) : Prop where
  decoder : s.dec.wf = true
  configuration : s.loaded = true → s.params.geometry.legal = true
  bootOrder : s.loaded = true ∨ (s.link = .closed ∧ s.thread = .ready)
  resyncLen : Config.maxPayload ≤ s.params.resyncLen
  outputs : s.out.msg = none ∨ s.out.ferr = none
  thread : threadAgrees s.link s.thread

/-- The first condition of the boot order: the run's configuration is loaded, and legal (R128, R24). -/
def State.configured (s : State) : Prop := s.loaded = true ∧ s.params.geometry.legal = true

/-- Inputs by which exactly the bytes `bs` arrive at the device, in order, unchanged and with nothing between them, in
any chunking, the inputs `rest` after them: `LinkDelivers(bs)` of R35. A premise of a claim, never a property of the
machine. The rule says only that nothing comes between the bytes; that no input of the host (a call, a write's answer)
falls between two of them either is the model's narrower reading (DESIGN CHOICE, safe: log entry 16). -/
def LinkDelivers (bs : List Byte) (inputs rest : List Input) : Prop :=
  ∃ chunks : List (List Byte), chunks.flatten = bs ∧ inputs = chunks.map Input.read ++ rest

/-- The writes that a `send` standing at this place of its sequence may still issue (R99 to R102). -/
def writesLeft : HostThread → Nat
  | .ready => 0
  | .opening => 0
  | .writing _ => 2
  | .reopening _ => 2
  | .resyncing _ => 1
  | .retrying _ => 0

/-- The environment's answers to the primitives of one `send`, as inputs. -/
def answers (as : List Answer) : List Input := as.map Input.answer

/-- `k` steps of the machine, stopping at the first fault or refusal. -/
def run (k : Nat) (s : State) : Host.Outcome State Fault Refusal := Sys2Proof.core.run k s

/-- Some number of steps takes `s` to `t`, none of them a fault or a refusal. -/
def RunsTo (s t : State) : Prop := ∃ k, run k s = .next t

end Sys2Proof.Machine
end

