-- ==== Sys2Proof/Certificates/Slice0/Obligations.lean ====
section
/-! DEFINITION. The statements for the provers. Each formalises rules of spec/ that its docstring names; where a clause
rests on a choice of the model's own, the docstring says so and names the log entry. -/

open Sys2Proof Sys2Proof.Machine

/-! ### Reset and the invariant -/

/-- The values after reset: R22 for the Decoder; the outputs as the summary R33 derives them; `link = Closed`, which
is R26's decision D28. The last clause is the model's (log entries 3 and 6): the spec gives the configuration no reset
value, and the model says that the host has not loaded it yet. -/
def Obligations.ResetValuesOfEveryUnit : Prop :=
  State.reset.dec.op = none ∧ State.reset.dec.acc = [] ∧ State.reset.dec.rem = 0 ∧
  State.reset.out.msg = none ∧ State.reset.out.ferr = none ∧
  State.reset.link = .closed ∧ State.reset.loaded = false

/-- The invariant (R8, R15, R21, R24, the boot order of R128, and the host's thread in step with its link, log entry
5) holds at reset. -/
def Obligations.InvariantHoldsAtReset : Prop := State.Inv State.reset

/-- Every step keeps the invariant, from every state that has it, whatever the environment presents. -/
def Obligations.EveryStepKeepsTheInvariant : Prop :=
  ∀ s t : State, s.Inv → step s = .next t → t.Inv

/-- R21, which the spec derives from R22 and R86 to R93: the Decoder's invariant holds at reset and after every step
from a state that meets it, whatever the rest of the state is; so a state that breaks it is never reached from reset.
-/
def Obligations.DecoderInvariantAfterEveryStep : Prop :=
  State.reset.dec.wf = true ∧
  ∀ s t : State, s.dec.wf = true → step s = .next t →
    t.dec.wf = true ∧
    (t.dec.op = none → t.dec.acc = [] ∧ t.dec.rem = 0) ∧
    (∀ o, t.dec.op = some o →
      o ∈ [0x69#8, 0x6C#8, 0x40#8, 0x74#8, 0x53#8] ∧ 1 ≤ t.dec.rem ∧
      plen o = some (t.dec.acc.length + t.dec.rem))

/-! ### Encoding -/

/-- R74: the Encoder's and the Decoder's line for `Init`; the built count is read off as a number. -/
def Obligations.InitEncodesAndBuilds : Prop :=
  (∀ n : U16, encodeMessage (.init n) = [0x69#8, n.extractLsb' 0 8, n.extractLsb' 8 8]) ∧
  (∀ p0 p1 : Byte, ∃ n : U16, build 0x69#8 [p0, p1] = some (.init n) ∧ n.toNat = p0.toNat + 256 * p1.toNat)

/-- R75 and R76: `Clear` and `Show` are their opcode byte alone, and an Idle Decoder emits them on that byte. -/
def Obligations.ClearAndShowAreOneByte : Prop :=
  encodeMessage .clear = [0x63#8] ∧ encodeMessage .showPixels = [0x73#8] ∧
  build 0x63#8 [] = some .clear ∧ build 0x73#8 [] = some .showPixels ∧
  feed Decoder.idle 0x63#8 = some { dec := Decoder.idle, msg := some .clear, ferr := none } ∧
  feed Decoder.idle 0x73#8 = some { dec := Decoder.idle, msg := some .showPixels, ferr := none }

/-- R77: the Encoder's and the Decoder's line for `SetPixel`, every address included. -/
def Obligations.SetPixelEncodesAndBuilds : Prop :=
  (∀ (a : U16) (r g b : Byte),
    encodeMessage (.setPixel a r g b) = [0x6C#8, a.extractLsb' 0 8, a.extractLsb' 8 8, r, g, b]) ∧
  (∀ p0 p1 p2 p3 p4 : Byte, ∃ a : U16,
    build 0x6C#8 [p0, p1, p2, p3, p4] = some (.setPixel a p2 p3 p4) ∧ a.toNat = p0.toNat + 256 * p1.toNat)

/-- R78: the Encoder's and the Decoder's line for `SetClock`, the field unsigned. -/
def Obligations.SetClockEncodesAndBuilds : Prop :=
  (∀ t : U32, encodeMessage (.setClock t) =
    [0x40#8, t.extractLsb' 0 8, t.extractLsb' 8 8, t.extractLsb' 16 8, t.extractLsb' 24 8]) ∧
  (∀ p0 p1 p2 p3 : Byte, ∃ t : U32, build 0x40#8 [p0, p1, p2, p3] = some (.setClock t) ∧
    t.toNat = p0.toNat + 256 * p1.toNat + 65536 * p2.toNat + 16777216 * p3.toNat)

/-- R79 and R54, the spec's decision D5: the Boolean byte is written as `0x00` or `0x01`, and read as false at `0x00`
only. -/
def Obligations.SetAutoRenderEncodesAndBuilds : Prop :=
  encodeMessage (.setAutoRender false) = [0x74#8, 0x00#8] ∧
  encodeMessage (.setAutoRender true) = [0x74#8, 0x01#8] ∧
  build 0x74#8 [0x00#8] = some (.setAutoRender false) ∧
  (∀ p : Byte, p ≠ 0x00#8 → build 0x74#8 [p] = some (.setAutoRender true))

/-- R80: the Encoder's and the Decoder's line for `SuspendHost`. -/
def Obligations.SuspendHostEncodesAndBuilds : Prop :=
  (∀ n : U16, encodeMessage (.suspendHost n) = [0x53#8, n.extractLsb' 0 8, n.extractLsb' 8 8]) ∧
  (∀ p0 p1 : Byte, ∃ n : U16,
    build 0x53#8 [p0, p1] = some (.suspendHost n) ∧ n.toNat = p0.toNat + 256 * p1.toNat)

/-- R55: the payload length is a function of the opcode byte alone, defined for the seven known bytes only. -/
def Obligations.PayloadLengthOfEveryByte : Prop :=
  ∀ b : Byte,
    plen b = (if b = 0x69#8 then some 2 else if b = 0x63#8 then some 0 else if b = 0x73#8 then some 0
      else if b = 0x6C#8 then some 5 else if b = 0x40#8 then some 4 else if b = 0x74#8 then some 1
      else if b = 0x53#8 then some 2 else none) ∧
    (known b = true ↔ b ∈ [0x69#8, 0x63#8, 0x73#8, 0x6C#8, 0x40#8, 0x74#8, 0x53#8])

/-- Words written out from the patterns of R49 to R53 and R56 decode to the instruction they stand for. That `0x80`
reads as true is R54, the spec's decision D5. That a table word has its first byte in its lowest 8 bits, and zeros
above its length, is the model's reading of the table (log entry 2). -/
def Obligations.WrittenWordsDecode : Prop :=
  decodeTableWord 24 0x123469 = some (.init 0x1234#16) ∧
  decodeTableWord 8 0x63 = some .clear ∧
  decodeTableWord 8 0x73 = some .showPixels ∧
  decodeTableWord 48 0x03020101026C = some (.setPixel 0x0102#16 1#8 2#8 3#8) ∧
  decodeTableWord 40 0x1234567840 = some (.setClock 0x12345678#32) ∧
  decodeTableWord 16 0x8074 = some (.setAutoRender true) ∧
  decodeTableWord 24 0x012C53 = some (.suspendHost 300#16) ∧
  decodeTableWord 8 0x00 = some .resync ∧
  decodeTableWord 8 0x41 = none

/-- Decoding the encoding of any instruction, whatever bytes follow, gives that instruction and leaves those bytes: no
bit of an encoding is dropped. -/
def Obligations.DecodeInvertsEncode : Prop :=
  ∀ (i : Instr) (rest : List Byte), decode (encode i ++ rest) = .ok (i, rest)

/-- R61, which the spec derives: the shape of an encoding, the round trip through an Idle Decoder with nothing emitted
before the last byte, and its converse for a sequence of one message's length, but for the `t` message. -/
def Obligations.MessageRoundTripThroughTheDecoder : Prop :=
  (∀ m : WireMessage,
    (∃ n, plen m.tag = some n ∧ (encodeMessage m).length = 1 + n) ∧
    (encodeMessage m).head? = some m.tag ∧ m.tag ≠ 0x00#8 ∧ known m.tag = true ∧
    feedChunk Decoder.idle (encodeMessage m) = some { dec := Decoder.idle, msgs := [m], ferrs := [] } ∧
    (∀ k, k < (encodeMessage m).length → ∃ d, feedChunk Decoder.idle ((encodeMessage m).take k) =
      some { dec := d, msgs := [], ferrs := [] })) ∧
  (∀ (o : Byte) (p : List Byte) (m : WireMessage),
    plen o = some p.length →
    feedChunk Decoder.idle (o :: p) = some { dec := Decoder.idle, msgs := [m], ferrs := [] } →
    o :: p = encodeMessage m ∨
      (m = .setAutoRender true ∧ o = 0x74#8 ∧ ∃ b : Byte, p = [b] ∧ 2 ≤ b.toNat))

/-- R60, the spec's own notation (D30): what each line of a stream expands to, and that a stream is their
concatenation in order. -/
def Obligations.StreamLinesExpand : Prop :=
  ∀ (len : Nat) (m : WireMessage) (n : Nat) (bs : List Byte) (l : StreamLine) (ls : List StreamLine),
    (StreamLine.message m).expand len = encodeMessage m ∧
    (StreamLine.resyncRun n).expand len = List.replicate n 0x00#8 ∧
    (StreamLine.rawBytes bs).expand len = bs ∧
    StreamLine.recovery.expand len = (StreamLine.resyncRun len).expand len ∧
    expandStream len [] = [] ∧
    expandStream len (l :: ls) = l.expand len ++ expandStream len ls

/-- R59, the spec's own notation (D30): a message line whose numbers fit their widths writes the message with those
values; one that does not fit writes none. -/
def Obligations.MessageLinesAssemble : Prop :=
  (∀ n : Nat, n < 65536 → ∃ v : U16, assembleTerm (.init n) = some (.init v) ∧ v.toNat = n) ∧
  (∀ a r g b : Nat, a < 65536 → r < 256 → g < 256 → b < 256 →
    ∃ (va : U16) (vr vg vb : Byte), assembleTerm (.setPixel a r g b) = some (.setPixel va vr vg vb) ∧
      va.toNat = a ∧ vr.toNat = r ∧ vg.toNat = g ∧ vb.toNat = b) ∧
  (∀ t : Nat, t < 4294967296 → ∃ v : U32, assembleTerm (.setClock t) = some (.setClock v) ∧ v.toNat = t) ∧
  (∀ n : Nat, n < 65536 → ∃ v : U16, assembleTerm (.suspendHost n) = some (.suspendHost v) ∧ v.toNat = n) ∧
  (∀ e : Bool, assembleTerm (.setAutoRender e) = some (.setAutoRender e)) ∧
  assembleTerm .clear = some .clear ∧ assembleTerm .showPixels = some .showPixels ∧
  (∀ n : Nat, 65536 ≤ n → assembleTerm (.init n) = none ∧ assembleTerm (.suspendHost n) = none) ∧
  (∀ a r g b : Nat, (65536 ≤ a ∨ 256 ≤ r ∨ 256 ≤ g ∨ 256 ≤ b) → assembleTerm (.setPixel a r g b) = none) ∧
  (∀ t : Nat, 4294967296 ≤ t → assembleTerm (.setClock t) = none)

/-! ### The meaning of each instruction -/

/-- Each of the seven messages, run in any state, completes: it is the step's one output, the consumer receives it,
the Decoder is Idle, and nothing else changes (R15, R84, R87, R91). -/
def Obligations.EveryMessageIsEmittedAndLeavesIdle : Prop :=
  ∀ s : State,
    (∀ n : U16, exec (.init n) s = .next { s with
      dec := { op := none, acc := [], rem := 0 }, out := { msg := some (.init n), ferr := none },
      consumer := s.consumer ++ [.init n] }) ∧
    (exec .clear s = .next { s with
      dec := { op := none, acc := [], rem := 0 }, out := { msg := some .clear, ferr := none },
      consumer := s.consumer ++ [.clear] }) ∧
    (exec .showPixels s = .next { s with
      dec := { op := none, acc := [], rem := 0 }, out := { msg := some .showPixels, ferr := none },
      consumer := s.consumer ++ [.showPixels] }) ∧
    (∀ (a : U16) (r g b : Byte), exec (.setPixel a r g b) s = .next { s with
      dec := { op := none, acc := [], rem := 0 }, out := { msg := some (.setPixel a r g b), ferr := none },
      consumer := s.consumer ++ [.setPixel a r g b] }) ∧
    (∀ t : U32, exec (.setClock t) s = .next { s with
      dec := { op := none, acc := [], rem := 0 }, out := { msg := some (.setClock t), ferr := none },
      consumer := s.consumer ++ [.setClock t] }) ∧
    (∀ e : Bool, exec (.setAutoRender e) s = .next { s with
      dec := { op := none, acc := [], rem := 0 }, out := { msg := some (.setAutoRender e), ferr := none },
      consumer := s.consumer ++ [.setAutoRender e] }) ∧
    (∀ d : U16, exec (.suspendHost d) s = .next { s with
      dec := { op := none, acc := [], rem := 0 }, out := { msg := some (.suspendHost d), ferr := none },
      consumer := s.consumer ++ [.suspendHost d] })

/-- The resync instruction, run in any state, completes with no output and changes nothing else (R56, R86). -/
def Obligations.ResyncCompletesWithNoEffect : Prop :=
  ∀ s : State, exec .resync s = .next { s with out := { msg := none, ferr := none } }

/-- The frame of all eight instructions: when one runs, the host's side, the parameters, the configuration, the
framing-error log and the waiting inputs are as before, and the consumer's sequence is only ever extended (R3, R25,
R40). The Decoder and its outputs may change. -/
def Obligations.InstructionsLeaveTheRestUnchanged : Prop :=
  ∀ (i : Instr) (s t : State), exec i s = .next t →
    t.params = s.params ∧ t.deviceLog = s.deviceLog ∧ t.link = s.link ∧ t.loaded = s.loaded ∧
    t.thread = s.thread ∧ t.ret = s.ret ∧ t.hostLog = s.hostLog ∧ t.written = s.written ∧
    t.inputs = s.inputs ∧ (∃ ms, t.consumer = s.consumer ++ ms ∧ ms.length ≤ 1) ∧
    (i = .resync → t.dec = s.dec ∧ t.consumer = s.consumer)

/-- A step runs the decoded instruction: when the bytes already collected and the next byte of a read decode to an
instruction, the step is `exec` of it, on the state whose input is moved past that byte and whose last step's outputs
are cleared. -/
def Obligations.StepRunsTheDecodedInstruction : Prop :=
  ∀ (s : State) (b : Byte) (c : List Byte) (rest : List Input) (i : Instr),
    s.dec.wf = true → s.inputs = .read (b :: c) :: rest →
    decode (s.dec.op.toList ++ s.dec.acc ++ [b]) = .ok (i, []) →
    step s = exec i { s with
      inputs := readRest c rest, out := { msg := none, ferr := none }, ret := none }

/-- The placement of a table word that the host's interface uses does what it says: the next step takes the word's
last byte and runs the instruction the word decodes to (log entry 2; no rule of the spec states it). -/
def Obligations.PlacedTableWordRunsNext : Prop :=
  ∀ (s : State) (nbits w : Nat) (i : Instr), decodeTableWord nbits w = some i →
    step (s.withFetchWord nbits w) = exec i { s.withFetchWord nbits w with
      inputs := s.inputs, out := { msg := none, ferr := none }, ret := none }

/-! ### The Decoder's steps (R85 to R96) -/

/-- R86: in Idle the byte `0x00` is consumed with no output and the Decoder's state is as before. -/
def Obligations.ZeroByteInIdleIsNoOperation : Prop :=
  ∀ (s : State) (c : List Byte) (rest : List Input),
    s.dec.op = none → s.inputs = .read (0x00#8 :: c) :: rest →
    step s = .next { s with inputs := readRest c rest, out := { msg := none, ferr := none }, ret := none }

/-- R87: in Idle an opcode with no payload emits its message in the same step and the Decoder stays Idle. -/
def Obligations.PayloadlessOpcodeEmitsAtOnce : Prop :=
  ∀ (s : State) (c : List Byte) (rest : List Input),
    s.dec = { op := none, acc := [], rem := 0 } →
    (s.inputs = .read (0x63#8 :: c) :: rest →
      step s = .next { s with
        inputs := readRest c rest, ret := none, out := { msg := some .clear, ferr := none },
        consumer := s.consumer ++ [.clear] }) ∧
    (s.inputs = .read (0x73#8 :: c) :: rest →
      step s = .next { s with
        inputs := readRest c rest, ret := none, out := { msg := some .showPixels, ferr := none },
        consumer := s.consumer ++ [.showPixels] })

/-- R88: in Idle an opcode with a payload begins its collection, with no output. -/
def Obligations.PayloadOpcodeBeginsCollecting : Prop :=
  ∀ (s : State) (o : Byte) (n : Nat) (c : List Byte) (rest : List Input),
    (o, n) ∈ [(0x69#8, 2), (0x6C#8, 5), (0x40#8, 4), (0x74#8, 1), (0x53#8, 2)] →
    s.dec.op = none → s.inputs = .read (o :: c) :: rest →
    step s = .next { s with
      inputs := readRest c rest, ret := none, out := { msg := none, ferr := none },
      dec := { op := some o, acc := [], rem := n } }

/-- R89 and R57: in Idle each of the 248 other bytes is a framing error, reported with the byte, which is dropped; the
Decoder stays Idle. -/
def Obligations.UnknownOpcodeIsFramingError : Prop :=
  (List.range 256).countP (fun n => decide (n ≠ 0) && !known (BitVec.ofNat 8 n)) = 248 ∧
  ∀ (s : State) (b : Byte) (c : List Byte) (rest : List Input),
    s.dec.op = none → b ≠ 0x00#8 → known b = false → s.inputs = .read (b :: c) :: rest →
    step s = .next { s with
      inputs := readRest c rest, ret := none, out := { msg := none, ferr := some b },
      dec := { op := none, acc := [], rem := 0 }, deviceLog := s.deviceLog ++ [.framingError b] }

/-- R90: while more than one payload byte is expected, any byte is appended to the payload, with no output. -/
def Obligations.PayloadByteIsCollected : Prop :=
  ∀ (s : State) (o b : Byte) (c : List Byte) (rest : List Input),
    s.dec.op = some o → 2 ≤ s.dec.rem → s.inputs = .read (b :: c) :: rest →
    step s = .next { s with
      inputs := readRest c rest, ret := none, out := { msg := none, ferr := none },
      dec := { op := some o, acc := s.dec.acc ++ [b], rem := s.dec.rem - 1 } }

/-- R91: on the last payload byte, any byte, the message built from the whole payload is emitted and the Decoder is
Idle. -/
def Obligations.LastPayloadByteEmitsTheMessage : Prop :=
  ∀ (s : State) (o b : Byte) (c : List Byte) (rest : List Input),
    s.dec.wf = true → s.dec.op = some o → s.dec.rem = 1 → s.inputs = .read (b :: c) :: rest →
    ∃ m : WireMessage, build o (s.dec.acc ++ [b]) = some m.toInstr ∧
      step s = .next { s with
        inputs := readRest c rest, ret := none, out := { msg := some m, ferr := none },
        dec := { op := none, acc := [], rem := 0 }, consumer := s.consumer ++ [m] }

/-- R110: a step that reports a framing error is a Decoder step on an unknown opcode byte in Idle, it carries that
byte, and the Decoder is Idle after it; the framing-error log grows in no other step. -/
def Obligations.FramingErrorOnlyOnUnknownOpcodeInIdle : Prop :=
  ∀ s t : State, step s = .next t →
    (∀ b, t.out.ferr = some b →
      s.dec.op = none ∧ b ≠ 0x00#8 ∧ known b = false ∧ (∃ c rest, s.inputs = .read (b :: c) :: rest) ∧
      t.dec.op = none ∧ t.deviceLog = s.deviceLog ++ [.framingError b]) ∧
    (t.out.ferr = none → t.deviceLog = s.deviceLog)

/-- R85: `feed` has a result for every state that meets R21 and every byte, with at most one output, and the step on
that byte is that result: the Decoder, the outputs, the consumer and the framing-error log are as `feed` says, exactly
one byte is consumed, and nothing else changes. -/
def Obligations.ByteStepIsFeed : Prop :=
  ∀ (s : State) (b : Byte) (c : List Byte) (rest : List Input),
    s.dec.wf = true → s.inputs = .read (b :: c) :: rest →
    ∃ r, feed s.dec b = some r ∧ (r.msg = none ∨ r.ferr = none) ∧
      step s = .next { s with
        inputs := readRest c rest, ret := none, dec := r.dec, out := { msg := r.msg, ferr := r.ferr },
        consumer := s.consumer ++ r.msg.toList,
        deviceLog := s.deviceLog ++ r.ferr.toList.map Event.framingError }

/-- R93: `rst` puts the Decoder at its reset value, discards any partial message, and has no output. -/
def Obligations.RstDiscardsThePartialMessage : Prop :=
  ∀ (s : State) (rest : List Input), s.inputs = .rst :: rest →
    step s = .next { s with
      inputs := rest, ret := none, out := { msg := none, ferr := none },
      dec := { op := none, acc := [], rem := 0 } }

/-- R94, which the spec derives from R92: feeding the chunks of a sequence in turn gives what feeding the whole
sequence gives. -/
def Obligations.ChunkingDoesNotMatter : Prop :=
  ∀ (d : Decoder) (chunks : List (List Byte)), feedChunks d chunks = feedChunk d chunks.flatten

/-- R95, which the spec derives from R86, R90 and R91: the three laws of a zero run, from every state that meets R21,
and that five zeros or more always end Idle. -/
def Obligations.ZeroRunLaws : Prop :=
  ∀ (d : Decoder) (n : Nat), d.wf = true →
    (d.op = none → feedChunk d (zeros n) = some { dec := Decoder.idle, msgs := [], ferrs := [] }) ∧
    (∀ o, d.op = some o → d.rem ≤ n →
      ∃ m : WireMessage, build o (d.acc ++ zeros d.rem) = some m.toInstr ∧
        feedChunk d (zeros d.rem) = some { dec := Decoder.idle, msgs := [m], ferrs := [] } ∧
        feedChunk d (zeros n) = some { dec := Decoder.idle, msgs := [m], ferrs := [] }) ∧
    (∀ o, d.op = some o → n < d.rem →
      feedChunk d (zeros n) =
        some { dec := { op := some o, acc := d.acc ++ zeros n, rem := d.rem - n }, msgs := [], ferrs := [] }) ∧
    (5 ≤ n → ∃ ms, feedChunk d (zeros n) = some { dec := Decoder.idle, msgs := ms, ferrs := [] })

/-- R96, which the spec derives from R88, R90, R91, R94 and R61: the encoded stream of any messages, in any chunking,
decodes to exactly those messages, ends Idle and raises no framing error. -/
def Obligations.EncodedStreamDecodes : Prop :=
  ∀ (ms : List WireMessage) (chunks : List (List Byte)),
    chunks.flatten = encodeMessages ms →
    feedChunks Decoder.idle chunks = some { dec := Decoder.idle, msgs := ms, ferrs := [] }

/-- R39 and R96 on the machine: under faithful delivery, in any chunking, the consumer receives exactly the messages
sent, in order; the Decoder ends Idle, no framing error is reported, and the host's side is as before. The delivery is
without an input of the host between its bytes, the model's reading of the premise (log entry 16). -/
def Obligations.DeliveredMessagesReachTheConsumerInOrder : Prop :=
  ∀ (s : State) (ms : List WireMessage) (rest : List Input),
    s.dec = Decoder.idle → LinkDelivers (encodeMessages ms) s.inputs rest →
    ∃ t, RunsTo s t ∧ t.inputs = rest ∧ t.dec = Decoder.idle ∧ t.consumer = s.consumer ++ ms ∧
      t.deviceLog = s.deviceLog ∧ t.link = s.link ∧ t.thread = s.thread ∧ t.loaded = s.loaded ∧
      t.hostLog = s.hostLog ∧ t.written = s.written ∧ t.params = s.params

/-- R40, which the spec derives from R90 and R91: the consumer's sequence changes only in the step that takes a
message's last byte, by exactly the message that the bytes collected and that byte decode to. -/
def Obligations.MessageTakesEffectOnItsLastByteOnly : Prop :=
  ∀ s t : State, s.dec.wf = true → step s = .next t →
    t.consumer = s.consumer ∨
    ∃ (m : WireMessage) (b : Byte) (c : List Byte) (rest : List Input),
      s.inputs = .read (b :: c) :: rest ∧
      decode (s.dec.op.toList ++ s.dec.acc ++ [b]) = .ok (m.toInstr, []) ∧
      t.consumer = s.consumer ++ [m] ∧ t.out.msg = some m ∧ t.dec = Decoder.idle

/-! ### The CoordinateMapper (R62 to R72) -/

/-- R63 and R64, for a non-square panel the spec's decision D13: the logical extent and the rotation under each value
of `ROT`, and that a valid coordinate lands on the panel. The last clause is the agreement with the source's own
quarter-turn formulas on a square panel. -/
def Obligations.ExtentAndRotationOfEveryRot : Prop :=
  ∀ g : Geometry,
    (g.rot = 0#2 → g.W = g.columns.toNat ∧ g.H = g.rows.toNat ∧ ∀ x y, g.rotate x y = (x, y)) ∧
    (g.rot = 1#2 → g.W = g.rows.toNat ∧ g.H = g.columns.toNat ∧
      ∀ x y, g.rotate x y = (g.columns.toNat - 1 - y, x)) ∧
    (g.rot = 2#2 → g.W = g.columns.toNat ∧ g.H = g.rows.toNat ∧
      ∀ x y, g.rotate x y = (g.columns.toNat - 1 - x, g.rows.toNat - 1 - y)) ∧
    (g.rot = 3#2 → g.W = g.rows.toNat ∧ g.H = g.columns.toNat ∧
      ∀ x y, g.rotate x y = (y, g.rows.toNat - 1 - x)) ∧
    g.W * g.H = g.rows.toNat * g.columns.toNat ∧
    (∀ x y, x < g.W → y < g.H → (g.rotate x y).1 < g.columns.toNat ∧ (g.rotate x y).2 < g.rows.toNat) ∧
    (g.rows = g.columns → ∀ x y,
      (g.rot = 1#2 → g.rotate x y = (g.rows.toNat - 1 - y, x)) ∧
      (g.rot = 3#2 → g.rotate x y = (y, g.columns.toNat - 1 - x)))

/-- R65: the serpentine address, in range on the panel; and R67, which the spec derives from R65: its inverse, in
range too, and the inverse law. -/
def Obligations.SerpentineAndItsInverse : Prop :=
  ∀ g : Geometry, g.legal = true →
    (∀ pc pr, pc < g.columns.toNat → pr < g.rows.toNat →
      (pc % 2 = 0 → g.serp pc pr = pc * g.rows.toNat + pr) ∧
      (pc % 2 = 1 → g.serp pc pr = pc * g.rows.toNat + (g.rows.toNat - 1 - pr)) ∧
      g.serp pc pr < g.rows.toNat * g.columns.toNat) ∧
    (∀ a, a < g.rows.toNat * g.columns.toNat →
      (g.unserp a).1 = a / g.rows.toNat ∧
      ((g.unserp a).1 % 2 = 0 → (g.unserp a).2 = a % g.rows.toNat) ∧
      ((g.unserp a).1 % 2 = 1 → (g.unserp a).2 = g.rows.toNat - 1 - a % g.rows.toNat) ∧
      (g.unserp a).1 < g.columns.toNat ∧ (g.unserp a).2 < g.rows.toNat ∧
      g.serp (g.unserp a).1 (g.unserp a).2 = a)

/-- R68 and the law it derives from R64: the inverse rotation under each value of `ROT`; on the panel its result is
valid and the rotation undoes it. -/
def Obligations.InverseRotation : Prop :=
  ∀ (g : Geometry) (pc pr : Nat), pc < g.columns.toNat → pr < g.rows.toNat →
    (g.rot = 0#2 → g.unrotate pc pr = (pc, pr)) ∧
    (g.rot = 1#2 → g.unrotate pc pr = (pr, g.columns.toNat - 1 - pc)) ∧
    (g.rot = 2#2 → g.unrotate pc pr = (g.columns.toNat - 1 - pc, g.rows.toNat - 1 - pr)) ∧
    (g.rot = 3#2 → g.unrotate pc pr = (g.rows.toNat - 1 - pr, pc)) ∧
    (g.unrotate pc pr).1 < g.W ∧ (g.unrotate pc pr).2 < g.H ∧
    g.rotate (g.unrotate pc pr).1 (g.unrotate pc pr).2 = (pc, pr)

/-- R66 and R113, the fault being the spec's decision D14: `to_physical` on a loaded legal configuration returns the
serpentine address of the rotated coordinate, an address of the panel, or `MapperRange` with the operand where the
coordinate is outside; no other state is written. -/
def Obligations.ToPhysicalReturnsTheAddressOrFaults : Prop :=
  ∀ (s : State) (g : Geometry) (x y : U16) (rest : List Input),
    s.thread = .ready → s.loaded = true → s.params.geometry = g → g.legal = true →
    s.inputs = .call (.toPhysical x y) :: rest →
    (x.toNat < g.W → y.toNat < g.H → ∃ a : U16,
      a.toNat = g.serp (g.rotate x.toNat y.toNat).1 (g.rotate x.toNat y.toNat).2 ∧
      a.toNat < g.rows.toNat * g.columns.toNat ∧
      step s = .next { s with
        inputs := rest, out := { msg := none, ferr := none }, ret := some (.address a) }) ∧
    (g.W ≤ x.toNat ∨ g.H ≤ y.toNat →
      step s = .next { s with
        inputs := rest, out := { msg := none, ferr := none },
        ret := some (.mapperRange (.coordinate x y)),
        hostLog := s.hostLog ++ [.mapperRange (.coordinate x y)] })

/-- R69 and R113, the fault being the spec's decision D14: `to_logical` on a loaded legal configuration returns the
coordinate, or `MapperRange` with the operand where the address is outside the panel; no other state is written. -/
def Obligations.ToLogicalReturnsTheCoordinateOrFaults : Prop :=
  ∀ (s : State) (g : Geometry) (a : U16) (rest : List Input),
    s.thread = .ready → s.loaded = true → s.params.geometry = g → g.legal = true →
    s.inputs = .call (.toLogical a) :: rest →
    (a.toNat < g.rows.toNat * g.columns.toNat → ∃ x y : U16,
      (x.toNat, y.toNat) = g.unrotate (g.unserp a.toNat).1 (g.unserp a.toNat).2 ∧
      step s = .next { s with
        inputs := rest, out := { msg := none, ferr := none }, ret := some (.coordinate x y) }) ∧
    (g.rows.toNat * g.columns.toNat ≤ a.toNat →
      step s = .next { s with
        inputs := rest, out := { msg := none, ferr := none },
        ret := some (.mapperRange (.address a)),
        hostLog := s.hostLog ++ [.mapperRange (.address a)] })

/-- R70, which the spec derives from R67 and R68: the two operations are exact inverses, for every legal geometry,
square or not, and every rotation; so no two logical pixels share an LED. -/
def Obligations.MapperOperationsAreInverse : Prop :=
  ∀ g : Geometry, g.legal = true →
    (∀ x y : U16, x.toNat < g.W → y.toNat < g.H →
      ∃ a : U16, g.toPhysical x y = .ok a ∧ a.toNat < g.rows.toNat * g.columns.toNat ∧
        g.toLogical a = .ok (x, y)) ∧
    (∀ a : U16, a.toNat < g.rows.toNat * g.columns.toNat →
      ∃ x y : U16, g.toLogical a = .ok (x, y) ∧ x.toNat < g.W ∧ y.toNat < g.H ∧ g.toPhysical x y = .ok a) ∧
    (∀ x y x' y' a : U16, g.toPhysical x y = .ok a → g.toPhysical x' y' = .ok a → x = x' ∧ y = y')

/-- R72, which the spec derives from R64 and R65: the orientation of the panel at `ROT = 0`: the corner, the foot of
the first column and the place where the strip turns back. The words west, east, north and south of the rule are names
for these coordinates. -/
def Obligations.OrientationAtRotZero : Prop :=
  ∀ g : Geometry, g.legal = true → g.rot = 0#2 →
    (∀ x y, g.rotate x y = (x, y)) ∧
    g.toPhysical 0#16 0#16 = .ok 0#16 ∧
    g.toPhysical 0#16 (g.rows - 1#16) = .ok (g.rows - 1#16) ∧
    (2 ≤ g.columns.toNat → g.toPhysical 1#16 (g.rows - 1#16) = .ok g.rows)

/-- R62 (the spec's decision D15) and R127: before the configuration is loaded, or under an illegal one, no mapper
operation has a step. -/
def Obligations.MapperNeedsALegalConfiguration : Prop :=
  ∀ (s : State) (x y a : U16) (rest : List Input), s.thread = .ready →
    (s.inputs = .call (.toPhysical x y) :: rest ∨ s.inputs = .call (.toLogical a) :: rest) →
    (s.loaded = false → step s = .refused .configurationNotLoaded) ∧
    (s.loaded = true → s.params.geometry.legal = false → step s = .refused .illegalConfiguration)

/-- R24, R25 and R127: the run's configuration is loaded when it is legal (`1 <= ROWS`, `1 <= COLUMNS`, `ROWS*COLUMNS
<= 65535`), its value untouched, and refused otherwise. That the load is a step, and that a second one is refused, are
the model's (log entry 6). -/
def Obligations.ConfigurationIsLoadedOnceAndLegal : Prop :=
  ∀ (s : State) (g : Geometry) (rest : List Input), s.thread = .ready → s.params.geometry = g →
    s.inputs = .call .loadConfiguration :: rest →
    (s.loaded = false →
      1 ≤ g.rows.toNat → 1 ≤ g.columns.toNat → g.rows.toNat * g.columns.toNat ≤ 65535 →
      step s = .next { s with
        inputs := rest, out := { msg := none, ferr := none }, ret := some .ok, loaded := true }) ∧
    (s.loaded = false →
      (g.rows.toNat = 0 ∨ g.columns.toNat = 0 ∨ 65535 < g.rows.toNat * g.columns.toNat) →
      step s = .refused .illegalConfiguration) ∧
    (s.loaded = true → step s = .refused .configurationAlreadyLoaded)

/-- R25: the configuration is one for the whole run, written by no step of it; so are the platform's parameters. That
the configuration is loaded is undone only by a new start of the host process, which loads the same one (log entry 6).
-/
def Obligations.ConfigurationIsImmutable : Prop :=
  (∀ (k : Nat) (s t : State), run k s = .next t → t.params = s.params) ∧
  ∀ s t : State, step s = .next t → s.loaded = true → t.loaded = true ∨ ∃ rest, s.inputs = .hostStart :: rest

/-! ### The HostLink controller (R97 to R107) -/

/-- R97 (the spec's decision D28) after R128's first condition: once a legal configuration is loaded, `open` at boot,
with each answer of `LinkOpen`. While `link` is not `Closed` it is refused, and before the load, or under an illegal
configuration, it is refused too (R128). -/
def Obligations.OpenAtBoot : Prop :=
  ∀ (s : State) (rest : List Input), s.thread = .ready →
    (s.link = .closed → s.configured → s.inputs = .call .openLink :: .answer .openOk :: rest →
      ∃ t, run 2 s = .next t ∧ t.link = .opened ∧ t.ret = some .ok ∧ t.thread = .ready ∧
        t.hostLog = s.hostLog ∧ t.written = s.written ∧ t.inputs = rest) ∧
    (s.link = .closed → s.configured → s.inputs = .call .openLink :: .answer .openFail :: rest →
      ∃ t, run 2 s = .next t ∧ t.link = .failed ∧ t.ret = some .fatalLinkError ∧
        t.thread = .ready ∧ t.hostLog = s.hostLog ++ [.fatalLinkError] ∧ t.written = s.written ∧
        t.inputs = rest) ∧
    (s.link ≠ .closed → s.inputs = .call .openLink :: rest → step s = .refused .openWhileNotClosed) ∧
    (s.link = .closed → s.loaded = false → s.inputs = .call .openLink :: rest →
      step s = .refused .configurationNotLoaded) ∧
    (s.link = .closed → s.loaded = true → s.params.geometry.legal = false → s.inputs = .call .openLink :: rest →
      step s = .refused .illegalConfiguration)

/-- R98 (the spec's decision D10) and R128: `send` has a step only while `link = Open`, and only once a legal
configuration is loaded; then it has one. -/
def Obligations.SendNeedsAnOpenLink : Prop :=
  ∀ (s : State) (m : WireMessage) (rest : List Input), s.thread = .ready →
    s.inputs = .call (.send m) :: rest →
    (s.link ≠ .opened → step s = .refused .sendWhileNotOpen) ∧
    (s.link = .opened → s.loaded = false → step s = .refused .configurationNotLoaded) ∧
    (s.link = .opened → s.loaded = true → s.params.geometry.legal = false →
      step s = .refused .illegalConfiguration) ∧
    (s.link = .opened → s.configured → ∃ t, step s = .next t)

/-- R99, one message a write by the spec's decision D31: with the boot order of R128 met, a `send` writes exactly the
encoded message. Where that write is answered `Ok` it returns `Ok`, with no event, the link and everything else as
before; where it is answered `Timeout(k)` it goes to recovery. No other `send` runs meanwhile; that the machine then
has no step is the model's choice (log entry 7). -/
def Obligations.SendOnTheNormalPath : Prop :=
  ∀ (s : State) (m : WireMessage) (rest : List Input),
    s.thread = .ready → s.link = .opened → s.configured →
    (s.inputs = .call (.send m) :: .answer .writeOk :: rest →
      run 2 s = .next { s with
        inputs := rest, out := { msg := none, ferr := none }, ret := some .ok,
        written := s.written ++ [encodeMessage m] }) ∧
    (∀ k, k ≤ (encodeMessage m).length → s.inputs = .call (.send m) :: .answer (.writeTimeout k) :: rest →
      run 2 s = .next { s with
        inputs := rest, out := { msg := none, ferr := none }, ret := none, link := .closed,
        thread := .reopening (encodeMessage m), written := s.written ++ [encodeMessage m],
        hostLog := s.hostLog ++ [.linkWriteTimeout] }) ∧
    (∀ m', s.inputs = .call (.send m) :: .call (.send m') :: rest → ∀ t, run 2 s ≠ .next t)

/-- R3: no two operations of the host overlap: while one is in progress no call has a step (log entry 7), and a call
with the thread between operations never finds it busy. -/
def Obligations.HostOperationsDoNotOverlap : Prop :=
  ∀ (s : State) (c : HostCall) (rest : List Input), s.inputs = .call c :: rest →
    (s.thread ≠ .ready ↔ step s = .refused .hostThreadBusy)

/-- R100 and R111 (a failed reopen is fatal by the spec's decision D8): a timeout of the first write raises
`LinkWriteTimeout` and closes the link; the reopen opens it, and resets the device's Decoder exactly where the device
sees it (R10), or its failure is fatal. That the Decoder is reset in the step that answers `LinkOpen` with `Ok`, and
not when the link closes or at a failed reopen, is the model's (log entry 4). -/
def Obligations.RecoveryClosesAndReopens : Prop :=
  ∀ (s : State) (bs : List Byte) (rest : List Input),
    (∀ k, k ≤ bs.length → s.thread = .writing bs → s.inputs = .answer (.writeTimeout k) :: rest →
      step s = .next { s with
        inputs := rest, out := { msg := none, ferr := none }, ret := none, link := .closed,
        thread := .reopening bs, hostLog := s.hostLog ++ [.linkWriteTimeout] }) ∧
    (s.thread = .reopening bs → s.inputs = .answer .openOk :: rest →
      step s = .next { s with
        inputs := rest, out := { msg := none, ferr := none }, ret := none, link := .opened,
        dec := if s.params.deviceSeesReopen then { op := none, acc := [], rem := 0 } else s.dec,
        thread := .resyncing bs, written := s.written ++ [List.replicate s.params.resyncLen 0x00#8] }) ∧
    (s.thread = .reopening bs → s.inputs = .answer .openFail :: rest →
      step s = .next { s with
        inputs := rest, out := { msg := none, ferr := none }, ret := some .fatalLinkError, link := .failed,
        thread := .ready, hostLog := s.hostLog ++ [.fatalLinkError] })

/-- R101, whose failure the spec decides (D8): once the link is reopened the resync run is written, and a timeout of
that write is fatal and starts no second recovery. -/
def Obligations.RecoveryWritesTheResyncRun : Prop :=
  ∀ (s : State) (bs : List Byte) (rest : List Input),
    (s.thread = .reopening bs → s.inputs = .answer .openOk :: rest →
      ∃ t, step s = .next t ∧ t.thread = .resyncing bs ∧
        t.written = s.written ++ [List.replicate s.params.resyncLen 0x00#8] ∧ t.hostLog = s.hostLog) ∧
    (∀ k, s.thread = .resyncing bs → k ≤ s.params.resyncLen → s.inputs = .answer (.writeTimeout k) :: rest →
      step s = .next { s with
        inputs := rest, out := { msg := none, ferr := none }, ret := some .fatalLinkError, link := .failed,
        thread := .ready, hostLog := s.hostLog ++ [.fatalLinkError] })

/-- R102: once the resync run is written the same bytes are written again, once; where that write is answered `Ok` the
`send` returns `Ok`; where it times out the `send` is fatal. -/
def Obligations.RetransmissionEndsTheSend : Prop :=
  ∀ (s : State) (bs : List Byte) (rest : List Input),
    (s.thread = .resyncing bs → s.inputs = .answer .writeOk :: rest →
      step s = .next { s with
        inputs := rest, out := { msg := none, ferr := none }, ret := none,
        thread := .retrying bs, written := s.written ++ [bs] }) ∧
    (s.thread = .retrying bs → s.inputs = .answer .writeOk :: rest →
      step s = .next { s with
        inputs := rest, out := { msg := none, ferr := none }, ret := some .ok, thread := .ready }) ∧
    (∀ k, s.thread = .retrying bs → k ≤ bs.length → s.inputs = .answer (.writeTimeout k) :: rest →
      step s = .next { s with
        inputs := rest, out := { msg := none, ferr := none }, ret := some .fatalLinkError, link := .failed,
        thread := .ready, hostLog := s.hostLog ++ [.fatalLinkError] })

/-- R103, which the spec derives from R99 to R102: the step that ends a `send` returns `Ok` or `FatalLinkError` and
nothing else. `Ok` means that a write of a whole encoded message was just answered `Ok`, and the link is open;
`FatalLinkError` means `link = Failed`. -/
def Obligations.SendReturnsOkOrFatal : Prop :=
  ∀ (s t : State) (a : Answer) (rest : List Input), s.Inv → s.thread ≠ .ready → s.thread ≠ .opening →
    s.inputs = .answer a :: rest → step s = .next t → t.thread = .ready →
    (t.ret = some .ok ∧ t.link = .opened ∧ a = .writeOk ∧
      ∃ m, s.thread = .writing (encodeMessage m) ∨ s.thread = .retrying (encodeMessage m)) ∨
    (t.ret = some .fatalLinkError ∧ t.link = .failed)

/-- R105 (the spec's decision D9): a `send` issues its first write at its start and may issue two more at most; every
step of it uses up what it writes, no step of another input writes to the link, and every `send` starts with the whole
budget again. That the host has no other operation that writes, such as a resync run at start (R133), is the model's
choice (log entry 17). -/
def Obligations.SendWritesAtMostThreeTimes : Prop :=
  ∀ s t : State, step s = .next t →
    (∀ m rest, s.inputs = .call (.send m) :: rest →
      t.written = s.written ++ [encodeMessage m] ∧ writesLeft t.thread = 2) ∧
    (∀ a rest, s.inputs = .answer a :: rest →
      t.written.length + writesLeft t.thread ≤ s.written.length + writesLeft s.thread) ∧
    ((∀ m rest, s.inputs ≠ .call (.send m) :: rest) → (∀ a rest, s.inputs ≠ .answer a :: rest) →
      t.written = s.written)

/-- R104, which the spec derives from R95 and R8: the guarantee of recovery. From a `send` whose reopen was answered,
with `RESYNC_LEN >= 5`, when the run is written and delivered whole and then the retransmission is written and
delivered whole, the device's Decoder, whatever it held, is Idle when the retransmission's first byte arrives, and
ends Idle with `m` as the last message emitted, after at most one message completed by the run; no framing error is
raised and `send` has returned `Ok`, its link open. The delivery is without an input of the host between its bytes,
the model's reading of the premise (log entry 16). -/
def Obligations.RecoveryDeliversTheMessage : Prop :=
  ∀ (s : State) (m : WireMessage) (run again rest : List Input),
    s.dec.wf = true → 5 ≤ s.params.resyncLen → s.link = .opened →
    s.thread = .resyncing (encodeMessage m) →
    LinkDelivers (zeros s.params.resyncLen) run (.answer .writeOk :: again) →
    LinkDelivers (encodeMessage m) again (.answer .writeOk :: rest) →
    s.inputs = run →
    ∃ (u t : State) (spurious : List WireMessage),
      RunsTo s u ∧ u.inputs = again ∧ u.dec = Decoder.idle ∧ u.consumer = s.consumer ++ spurious ∧
      RunsTo u t ∧ t.inputs = rest ∧ t.dec = Decoder.idle ∧
      t.consumer = s.consumer ++ spurious ++ [m] ∧ spurious.length ≤ 1 ∧
      t.deviceLog = s.deviceLog ∧ t.ret = some .ok ∧ t.link = .opened ∧ t.thread = .ready ∧
      t.written = s.written ++ [encodeMessage m]

/-- A whole recovered `send` on the host (R99 to R102, vector HV4): three writes, one event, `Ok`, whatever `k` of R16
the environment drew. -/
def Obligations.RecoveredSendWritesMessageRunMessage : Prop :=
  ∀ (s : State) (m : WireMessage) (k : Nat) (rest : List Input),
    s.thread = .ready → s.link = .opened → s.configured → k ≤ (encodeMessage m).length →
    s.inputs = .call (.send m) :: (answers [.writeTimeout k, .openOk, .writeOk, .writeOk] ++ rest) →
    ∃ t, run 5 s = .next t ∧ t.ret = some .ok ∧ t.link = .opened ∧ t.thread = .ready ∧
      t.written = s.written ++ [encodeMessage m, zeros s.params.resyncLen, encodeMessage m] ∧
      t.hostLog = s.hostLog ++ [.linkWriteTimeout] ∧ t.inputs = rest

/-- R26: `Failed` is left only by a new start of the host process; while it stands no `send` and no `open` has a step.
-/
def Obligations.FailedLinkStaysFailed : Prop :=
  ∀ s : State, s.Inv → s.link = .failed →
    (∀ t, step s = .next t → t.link = .failed ∨ ∃ rest, s.inputs = .hostStart :: rest) ∧
    (∀ m rest, s.inputs = .call (.send m) :: rest → step s = .refused .sendWhileNotOpen) ∧
    (∀ rest, s.inputs = .call .openLink :: rest → step s = .refused .openWhileNotClosed)

/-- R126 and R133, as an input of the model (log entry 10): a new start of the host process puts the HostLink
controller at its reset value and leaves the device as it is, mid-message or not. That the run's configuration is then
to be loaded again, its value unchanged, is the model's reading (log entry 6). -/
def Obligations.HostStartLeavesTheDeviceAlone : Prop :=
  ∀ (s : State) (rest : List Input), s.inputs = .hostStart :: rest →
    step s = .next { s with
      inputs := rest, out := { msg := none, ferr := none }, ret := none, link := .closed, loaded := false,
      thread := .ready }

/-! ### Events and agents -/

/-- R108 (its codes are the spec's own, D17), R109 and R117, for one step of the model: the four codes; a step raises
at most one event, on the side of the agent that takes the step; a step that raises a framing error emits no message;
and the logs are only ever extended. -/
def Obligations.AtMostOneEventAStep : Prop :=
  (∀ b, (Event.framingError b).code = 1) ∧ Event.linkWriteTimeout.code = 2 ∧ Event.fatalLinkError.code = 3 ∧
  (∀ v, (Event.mapperRange v).code = 4) ∧
  ∀ s t : State, step s = .next t →
    ∃ d h : List Event, t.deviceLog = s.deviceLog ++ d ∧ t.hostLog = s.hostLog ++ h ∧
      d.length + h.length ≤ 1 ∧ (t.out.msg = none ∨ t.out.ferr = none) ∧
      (d ≠ [] → t.out.msg = none ∧ t.consumer = s.consumer)

/-- R3, R32 and R121: the agents share no state. A device input leaves the host's side as it is; a host input leaves
the device's side as it is and tells the host nothing of it, but for the Decoder's reset at an opening that the device
sees (R10; for the opening at boot, log entry 4). -/
def Obligations.AgentsShareNoState : Prop :=
  ∀ (s t : State) (i : Input) (rest : List Input), s.inputs = i :: rest → step s = .next t →
    ((∃ c, i = .read c) ∨ i = .rst →
      t.link = s.link ∧ t.thread = s.thread ∧ t.loaded = s.loaded ∧ t.hostLog = s.hostLog ∧
      t.written = s.written ∧ t.ret = none) ∧
    ((∃ c, i = .call c) ∨ (∃ a, i = .answer a) ∨ i = .hostStart →
      t.consumer = s.consumer ∧ t.deviceLog = s.deviceLog ∧ t.out = Outputs.none ∧ t.inputs = rest ∧
      (t.dec = s.dec ∨ (t.dec = Decoder.idle ∧ s.params.deviceSeesReopen = true ∧ i = .answer .openOk))) ∧
    ((∃ c, i = .call c) ∨ (∃ a, i = .answer a) ∨ i = .hostStart →
      ∀ d : Decoder, ∃ t', step { s with dec := d } = .next t' ∧ t'.link = t.link ∧ t'.thread = t.thread ∧
        t'.loaded = t.loaded ∧ t'.hostLog = t.hostLog ∧ t'.written = t.written ∧ t'.ret = t.ret)
end

