-- ==== Sys2Proof/Laws/Encoding.lean ====
section
/-! SUPPORT. The encoding's small lemmas: field assembly undoes field splitting, the opcode table read both ways, and
what `build` accepts and gives. -/

namespace Sys2Proof

/-! ### Field assembly -/

theorem u16le_toNat (p0 p1 : Byte) : (u16le p0 p1).toNat = p0.toNat + 256 * p1.toNat := by
  have := p0.isLt; have := p1.isLt
  simp only [u16le, BitVec.toNat_ofNat]; omega

theorem u32le_toNat (p0 p1 p2 p3 : Byte) : (u32le p0 p1 p2 p3).toNat =
    p0.toNat + 256 * p1.toNat + 65536 * p2.toNat + 16777216 * p3.toNat := by
  have := p0.isLt; have := p1.isLt; have := p2.isLt; have := p3.isLt
  simp only [u32le, BitVec.toNat_ofNat]; omega

@[simp] theorem u16le_bytes (v : U16) : u16le (v.extractLsb' 0 8) (v.extractLsb' 8 8) = v := by
  apply BitVec.eq_of_toNat_eq
  have := v.isLt
  rw [u16le_toNat]
  simp only [BitVec.extractLsb'_toNat, Nat.shiftRight_eq_div_pow]; omega

@[simp] theorem u32le_bytes (v : U32) :
    u32le (v.extractLsb' 0 8) (v.extractLsb' 8 8) (v.extractLsb' 16 8) (v.extractLsb' 24 8) = v := by
  apply BitVec.eq_of_toNat_eq
  have := v.isLt
  rw [u32le_toNat]
  simp only [BitVec.extractLsb'_toNat, Nat.shiftRight_eq_div_pow]; omega

/-- A byte of a word, as a number. -/
theorem extract_byte_toNat {w : Nat} (v : BitVec w) (k : Nat) :
    (v.extractLsb' k 8).toNat = v.toNat / 2 ^ k % 256 := by
  simp [BitVec.extractLsb'_toNat, Nat.shiftRight_eq_div_pow]

theorem bytes_u16le (p0 p1 : Byte) : le16 (u16le p0 p1) = [p0, p1] := by
  have h0 := p0.isLt
  have h1 := p1.isLt
  have e0 : (u16le p0 p1).extractLsb' 0 8 = p0 := by
    apply BitVec.eq_of_toNat_eq
    rw [extract_byte_toNat, u16le_toNat]; omega
  have e1 : (u16le p0 p1).extractLsb' 8 8 = p1 := by
    apply BitVec.eq_of_toNat_eq
    rw [extract_byte_toNat, u16le_toNat]; omega
  simp only [le16, e0, e1]

theorem bytes_u32le (p0 p1 p2 p3 : Byte) : le32 (u32le p0 p1 p2 p3) = [p0, p1, p2, p3] := by
  have h0 := p0.isLt
  have h1 := p1.isLt
  have h2 := p2.isLt
  have h3 := p3.isLt
  have e0 : (u32le p0 p1 p2 p3).extractLsb' 0 8 = p0 := by
    apply BitVec.eq_of_toNat_eq
    rw [extract_byte_toNat, u32le_toNat]; omega
  have e1 : (u32le p0 p1 p2 p3).extractLsb' 8 8 = p1 := by
    apply BitVec.eq_of_toNat_eq
    rw [extract_byte_toNat, u32le_toNat]; omega
  have e2 : (u32le p0 p1 p2 p3).extractLsb' 16 8 = p2 := by
    apply BitVec.eq_of_toNat_eq
    rw [extract_byte_toNat, u32le_toNat]; omega
  have e3 : (u32le p0 p1 p2 p3).extractLsb' 24 8 = p3 := by
    apply BitVec.eq_of_toNat_eq
    rw [extract_byte_toNat, u32le_toNat]; omega
  simp only [le32, e0, e1, e2, e3]

@[simp] theorem byteBool_boolByte (e : Bool) : byteBool (boolByte e) = e := by cases e <;> rfl

/-! ### The opcode table -/

@[simp] theorem kindOf_opcode (k : MessageKind) : kindOf k.opcode = some k := by cases k <;> decide

theorem opcode_ne_resyncByte (k : MessageKind) : k.opcode ≠ resyncByte := by cases k <;> decide

theorem opcode_of_kindOf {b : Byte} {k : MessageKind} (h : kindOf b = some k) : b = k.opcode := by
  have := List.find?_some h
  simpa using (beq_iff_eq.mp this).symm

theorem kindOf_resyncByte : kindOf resyncByte = none := by decide

theorem plen_eq_some {b : Byte} {n : Nat} (h : plen b = some n) :
    ∃ k : MessageKind, b = k.opcode ∧ n = k.payloadLen := by
  obtain ⟨k, hk, rfl⟩ := Option.map_eq_some_iff.mp h
  exact ⟨k, opcode_of_kindOf hk, rfl⟩

@[simp] theorem plen_opcode (k : MessageKind) : plen k.opcode = some k.payloadLen := by
  simp [plen]

@[simp] theorem build_opcode (k : MessageKind) (p : List Byte) : build k.opcode p = k.build p := by
  simp [build]

/-! ### What `build` accepts and gives (R81) -/

/-- `build` is total on payloads of the table's length, and gives a message of the opcode's kind. -/
theorem build_of_length (k : MessageKind) (p : List Byte) (h : p.length = k.payloadLen) :
    ∃ m : Machine.WireMessage, k.build p = some m.toInstr ∧ m.kind = k := by
  cases k
  · match p, h with | [a, b], _ => exact ⟨.init (u16le a b), rfl, rfl⟩
  · match p, h with | [], _ => exact ⟨.clear, rfl, rfl⟩
  · match p, h with | [], _ => exact ⟨.showPixels, rfl, rfl⟩
  · match p, h with | [a, b, c, d, e], _ => exact ⟨.setPixel (u16le a b) c d e, rfl, rfl⟩
  · match p, h with | [a, b, c, d], _ => exact ⟨.setClock (u32le a b c d), rfl, rfl⟩
  · match p, h with | [a], _ => exact ⟨.setAutoRender (byteBool a), rfl, rfl⟩
  · match p, h with | [a, b], _ => exact ⟨.suspendHost (u16le a b), rfl, rfl⟩

/-- `build` gives nothing on a payload of another length. -/
theorem length_of_build {k : MessageKind} {p : List Byte} {i : Instr} (h : k.build p = some i) :
    p.length = k.payloadLen := by
  cases k <;> simp only [MessageKind.build] at h <;> split at h <;> simp_all [MessageKind.payloadLen]

/-! ### The parts of an encoding -/

/-- An encoded message is its tag and a payload of the table's length, from which `build` gives the message back. -/
theorem encodeMessage_parts (m : Machine.WireMessage) :
    ∃ p, Machine.encodeMessage m = m.tag :: p ∧ p.length = m.kind.payloadLen ∧ m.kind.build p = some m.toInstr := by
  cases m with
  | init n => exact ⟨le16 n, rfl, rfl, by simp [Machine.WireMessage.kind, MessageKind.build, le16, Machine.WireMessage.toInstr]⟩
  | clear => exact ⟨[], rfl, rfl, rfl⟩
  | showPixels => exact ⟨[], rfl, rfl, rfl⟩
  | setPixel a r g b =>
    exact ⟨le16 a ++ [r, g, b], rfl, rfl,
      by simp [Machine.WireMessage.kind, MessageKind.build, le16, Machine.WireMessage.toInstr]⟩
  | setClock t => exact ⟨le32 t, rfl, rfl, by simp [Machine.WireMessage.kind, MessageKind.build, le32, Machine.WireMessage.toInstr]⟩
  | setAutoRender e =>
    exact ⟨[boolByte e], rfl, rfl, by simp [Machine.WireMessage.kind, MessageKind.build, Machine.WireMessage.toInstr]⟩
  | suspendHost d =>
    exact ⟨le16 d, rfl, rfl, by simp [Machine.WireMessage.kind, MessageKind.build, le16, Machine.WireMessage.toInstr]⟩

@[simp] theorem instrMessage_toInstr (m : Machine.WireMessage) : Machine.instrMessage m.toInstr = some m := by
  cases m <;> rfl

theorem toInstr_ne_resync (m : Machine.WireMessage) : m.toInstr ≠ .resync := by
  cases m <;> simp [Machine.WireMessage.toInstr]

theorem eq_resync_or_toInstr (i : Instr) : i = .resync ∨ ∃ m : Machine.WireMessage, i = m.toInstr := by
  cases i with
  | init n => exact .inr ⟨.init n, rfl⟩
  | clear => exact .inr ⟨.clear, rfl⟩
  | showPixels => exact .inr ⟨.showPixels, rfl⟩
  | setPixel a r g b => exact .inr ⟨.setPixel a r g b, rfl⟩
  | setClock t => exact .inr ⟨.setClock t, rfl⟩
  | setAutoRender e => exact .inr ⟨.setAutoRender e, rfl⟩
  | suspendHost d => exact .inr ⟨.suspendHost d, rfl⟩
  | resync => exact .inl rfl

end Sys2Proof
end

