-- ==== Sys2Proof/Laws/State.lean ====
section
/-! SUPPORT. One lemma per field per named update of the state, so that no proof unfolds a record update; and what
reporting an event writes. -/

namespace Sys2Proof.Machine

variable (s : State)

/-! ### `takeInput` -/

@[simp] theorem takeInput_params (rest : List Input) : (s.takeInput rest).params = s.params := rfl
@[simp] theorem takeInput_dec (rest : List Input) : (s.takeInput rest).dec = s.dec := rfl
@[simp] theorem takeInput_out (rest : List Input) : (s.takeInput rest).out = Outputs.none := rfl
@[simp] theorem takeInput_deviceLog (rest : List Input) : (s.takeInput rest).deviceLog = s.deviceLog := rfl
@[simp] theorem takeInput_consumer (rest : List Input) : (s.takeInput rest).consumer = s.consumer := rfl
@[simp] theorem takeInput_link (rest : List Input) : (s.takeInput rest).link = s.link := rfl
@[simp] theorem takeInput_loaded (rest : List Input) : (s.takeInput rest).loaded = s.loaded := rfl
@[simp] theorem takeInput_thread (rest : List Input) : (s.takeInput rest).thread = s.thread := rfl
@[simp] theorem takeInput_ret (rest : List Input) : (s.takeInput rest).ret = none := rfl
@[simp] theorem takeInput_hostLog (rest : List Input) : (s.takeInput rest).hostLog = s.hostLog := rfl
@[simp] theorem takeInput_written (rest : List Input) : (s.takeInput rest).written = s.written := rfl
@[simp] theorem takeInput_inputs (rest : List Input) : (s.takeInput rest).inputs = rest := rfl

/-! ### `setDecoder` -/

@[simp] theorem setDecoder_params (d : Decoder) : (s.setDecoder d).params = s.params := rfl
@[simp] theorem setDecoder_dec (d : Decoder) : (s.setDecoder d).dec = d := rfl
@[simp] theorem setDecoder_out (d : Decoder) : (s.setDecoder d).out = s.out := rfl
@[simp] theorem setDecoder_deviceLog (d : Decoder) : (s.setDecoder d).deviceLog = s.deviceLog := rfl
@[simp] theorem setDecoder_consumer (d : Decoder) : (s.setDecoder d).consumer = s.consumer := rfl
@[simp] theorem setDecoder_link (d : Decoder) : (s.setDecoder d).link = s.link := rfl
@[simp] theorem setDecoder_loaded (d : Decoder) : (s.setDecoder d).loaded = s.loaded := rfl
@[simp] theorem setDecoder_thread (d : Decoder) : (s.setDecoder d).thread = s.thread := rfl
@[simp] theorem setDecoder_ret (d : Decoder) : (s.setDecoder d).ret = s.ret := rfl
@[simp] theorem setDecoder_hostLog (d : Decoder) : (s.setDecoder d).hostLog = s.hostLog := rfl
@[simp] theorem setDecoder_written (d : Decoder) : (s.setDecoder d).written = s.written := rfl
@[simp] theorem setDecoder_inputs (d : Decoder) : (s.setDecoder d).inputs = s.inputs := rfl

/-! ### `emitMessage` -/

@[simp] theorem emitMessage_params (m : WireMessage) : (s.emitMessage m).params = s.params := rfl
@[simp] theorem emitMessage_dec (m : WireMessage) : (s.emitMessage m).dec = Decoder.idle := rfl
@[simp] theorem emitMessage_out (m : WireMessage) : (s.emitMessage m).out = { msg := some m, ferr := none } := rfl
@[simp] theorem emitMessage_deviceLog (m : WireMessage) : (s.emitMessage m).deviceLog = s.deviceLog := rfl
@[simp] theorem emitMessage_consumer (m : WireMessage) : (s.emitMessage m).consumer = s.consumer ++ [m] := rfl
@[simp] theorem emitMessage_link (m : WireMessage) : (s.emitMessage m).link = s.link := rfl
@[simp] theorem emitMessage_loaded (m : WireMessage) : (s.emitMessage m).loaded = s.loaded := rfl
@[simp] theorem emitMessage_thread (m : WireMessage) : (s.emitMessage m).thread = s.thread := rfl
@[simp] theorem emitMessage_ret (m : WireMessage) : (s.emitMessage m).ret = s.ret := rfl
@[simp] theorem emitMessage_hostLog (m : WireMessage) : (s.emitMessage m).hostLog = s.hostLog := rfl
@[simp] theorem emitMessage_written (m : WireMessage) : (s.emitMessage m).written = s.written := rfl
@[simp] theorem emitMessage_inputs (m : WireMessage) : (s.emitMessage m).inputs = s.inputs := rfl

/-! ### `assertRst` -/

@[simp] theorem assertRst_params : s.assertRst.params = s.params := rfl
@[simp] theorem assertRst_dec : s.assertRst.dec = Decoder.idle := rfl
@[simp] theorem assertRst_out : s.assertRst.out = Outputs.none := rfl
@[simp] theorem assertRst_deviceLog : s.assertRst.deviceLog = s.deviceLog := rfl
@[simp] theorem assertRst_consumer : s.assertRst.consumer = s.consumer := rfl
@[simp] theorem assertRst_link : s.assertRst.link = s.link := rfl
@[simp] theorem assertRst_loaded : s.assertRst.loaded = s.loaded := rfl
@[simp] theorem assertRst_thread : s.assertRst.thread = s.thread := rfl
@[simp] theorem assertRst_ret : s.assertRst.ret = s.ret := rfl
@[simp] theorem assertRst_hostLog : s.assertRst.hostLog = s.hostLog := rfl
@[simp] theorem assertRst_written : s.assertRst.written = s.written := rfl
@[simp] theorem assertRst_inputs : s.assertRst.inputs = s.inputs := rfl

/-! ### `finish` -/

@[simp] theorem finish_params (r : Return) : (s.finish r).params = s.params := rfl
@[simp] theorem finish_dec (r : Return) : (s.finish r).dec = s.dec := rfl
@[simp] theorem finish_out (r : Return) : (s.finish r).out = s.out := rfl
@[simp] theorem finish_deviceLog (r : Return) : (s.finish r).deviceLog = s.deviceLog := rfl
@[simp] theorem finish_consumer (r : Return) : (s.finish r).consumer = s.consumer := rfl
@[simp] theorem finish_link (r : Return) : (s.finish r).link = s.link := rfl
@[simp] theorem finish_loaded (r : Return) : (s.finish r).loaded = s.loaded := rfl
@[simp] theorem finish_thread (r : Return) : (s.finish r).thread = .ready := rfl
@[simp] theorem finish_ret (r : Return) : (s.finish r).ret = some r := rfl
@[simp] theorem finish_hostLog (r : Return) : (s.finish r).hostLog = s.hostLog := rfl
@[simp] theorem finish_written (r : Return) : (s.finish r).written = s.written := rfl
@[simp] theorem finish_inputs (r : Return) : (s.finish r).inputs = s.inputs := rfl

/-! ### `issueWrite` -/

@[simp] theorem issueWrite_params (bs : List Byte) (t : HostThread) : (s.issueWrite bs t).params = s.params := rfl
@[simp] theorem issueWrite_dec (bs : List Byte) (t : HostThread) : (s.issueWrite bs t).dec = s.dec := rfl
@[simp] theorem issueWrite_out (bs : List Byte) (t : HostThread) : (s.issueWrite bs t).out = s.out := rfl
@[simp] theorem issueWrite_deviceLog (bs : List Byte) (t : HostThread) :
    (s.issueWrite bs t).deviceLog = s.deviceLog := rfl
@[simp] theorem issueWrite_consumer (bs : List Byte) (t : HostThread) :
    (s.issueWrite bs t).consumer = s.consumer := rfl
@[simp] theorem issueWrite_link (bs : List Byte) (t : HostThread) : (s.issueWrite bs t).link = s.link := rfl
@[simp] theorem issueWrite_loaded (bs : List Byte) (t : HostThread) :
    (s.issueWrite bs t).loaded = s.loaded := rfl
@[simp] theorem issueWrite_thread (bs : List Byte) (t : HostThread) : (s.issueWrite bs t).thread = t := rfl
@[simp] theorem issueWrite_ret (bs : List Byte) (t : HostThread) : (s.issueWrite bs t).ret = s.ret := rfl
@[simp] theorem issueWrite_hostLog (bs : List Byte) (t : HostThread) : (s.issueWrite bs t).hostLog = s.hostLog := rfl
@[simp] theorem issueWrite_written (bs : List Byte) (t : HostThread) :
    (s.issueWrite bs t).written = s.written ++ [bs] := rfl
@[simp] theorem issueWrite_inputs (bs : List Byte) (t : HostThread) : (s.issueWrite bs t).inputs = s.inputs := rfl

/-! ### `linkOpened` -/

@[simp] theorem linkOpened_params : s.linkOpened.params = s.params := rfl
@[simp] theorem linkOpened_dec : s.linkOpened.dec = if s.params.deviceSeesReopen then Decoder.idle else s.dec := rfl
@[simp] theorem linkOpened_out : s.linkOpened.out = s.out := rfl
@[simp] theorem linkOpened_deviceLog : s.linkOpened.deviceLog = s.deviceLog := rfl
@[simp] theorem linkOpened_consumer : s.linkOpened.consumer = s.consumer := rfl
@[simp] theorem linkOpened_link : s.linkOpened.link = .opened := rfl
@[simp] theorem linkOpened_loaded : s.linkOpened.loaded = s.loaded := rfl
@[simp] theorem linkOpened_thread : s.linkOpened.thread = s.thread := rfl
@[simp] theorem linkOpened_ret : s.linkOpened.ret = s.ret := rfl
@[simp] theorem linkOpened_hostLog : s.linkOpened.hostLog = s.hostLog := rfl
@[simp] theorem linkOpened_written : s.linkOpened.written = s.written := rfl
@[simp] theorem linkOpened_inputs : s.linkOpened.inputs = s.inputs := rfl

/-! ### `failFatally` -/

@[simp] theorem failFatally_params : s.failFatally.params = s.params := rfl
@[simp] theorem failFatally_dec : s.failFatally.dec = s.dec := rfl
@[simp] theorem failFatally_out : s.failFatally.out = s.out := rfl
@[simp] theorem failFatally_deviceLog : s.failFatally.deviceLog = s.deviceLog := rfl
@[simp] theorem failFatally_consumer : s.failFatally.consumer = s.consumer := rfl
@[simp] theorem failFatally_link : s.failFatally.link = .failed := rfl
@[simp] theorem failFatally_loaded : s.failFatally.loaded = s.loaded := rfl
@[simp] theorem failFatally_thread : s.failFatally.thread = .ready := rfl
@[simp] theorem failFatally_ret : s.failFatally.ret = some .fatalLinkError := rfl
@[simp] theorem failFatally_hostLog : s.failFatally.hostLog = s.hostLog ++ [.fatalLinkError] := rfl
@[simp] theorem failFatally_written : s.failFatally.written = s.written := rfl
@[simp] theorem failFatally_inputs : s.failFatally.inputs = s.inputs := rfl

/-! ### `restartHost` -/

@[simp] theorem restartHost_params : s.restartHost.params = s.params := rfl
@[simp] theorem restartHost_dec : s.restartHost.dec = s.dec := rfl
@[simp] theorem restartHost_out : s.restartHost.out = s.out := rfl
@[simp] theorem restartHost_deviceLog : s.restartHost.deviceLog = s.deviceLog := rfl
@[simp] theorem restartHost_consumer : s.restartHost.consumer = s.consumer := rfl
@[simp] theorem restartHost_link : s.restartHost.link = .closed := rfl
@[simp] theorem restartHost_loaded : s.restartHost.loaded = false := rfl
@[simp] theorem restartHost_thread : s.restartHost.thread = .ready := rfl
@[simp] theorem restartHost_ret : s.restartHost.ret = none := rfl
@[simp] theorem restartHost_hostLog : s.restartHost.hostLog = s.hostLog := rfl
@[simp] theorem restartHost_written : s.restartHost.written = s.written := rfl
@[simp] theorem restartHost_inputs : s.restartHost.inputs = s.inputs := rfl

/-! ### `raiseEvent` -/

@[simp] theorem raiseEvent_params (e : Event) : (s.raiseEvent e).params = s.params := by cases e <;> rfl
@[simp] theorem raiseEvent_dec (e : Event) : (s.raiseEvent e).dec = s.dec := by cases e <;> rfl
@[simp] theorem raiseEvent_consumer (e : Event) : (s.raiseEvent e).consumer = s.consumer := by cases e <;> rfl
@[simp] theorem raiseEvent_link (e : Event) : (s.raiseEvent e).link = s.link := by cases e <;> rfl
@[simp] theorem raiseEvent_loaded (e : Event) : (s.raiseEvent e).loaded = s.loaded := by cases e <;> rfl
@[simp] theorem raiseEvent_thread (e : Event) : (s.raiseEvent e).thread = s.thread := by cases e <;> rfl
@[simp] theorem raiseEvent_ret (e : Event) : (s.raiseEvent e).ret = s.ret := by cases e <;> rfl
@[simp] theorem raiseEvent_written (e : Event) : (s.raiseEvent e).written = s.written := by cases e <;> rfl
@[simp] theorem raiseEvent_inputs (e : Event) : (s.raiseEvent e).inputs = s.inputs := by cases e <;> rfl
@[simp] theorem raiseEvent_framingError_out (b : Byte) :
    (s.raiseEvent (.framingError b)).out = { msg := none, ferr := some b } := rfl
@[simp] theorem raiseEvent_framingError_deviceLog (b : Byte) :
    (s.raiseEvent (.framingError b)).deviceLog = s.deviceLog ++ [.framingError b] := rfl
@[simp] theorem raiseEvent_framingError_hostLog (b : Byte) :
    (s.raiseEvent (.framingError b)).hostLog = s.hostLog := rfl
@[simp] theorem raiseEvent_linkWriteTimeout_out :
    (s.raiseEvent .linkWriteTimeout).out = s.out := rfl
@[simp] theorem raiseEvent_linkWriteTimeout_deviceLog :
    (s.raiseEvent .linkWriteTimeout).deviceLog = s.deviceLog := rfl
@[simp] theorem raiseEvent_linkWriteTimeout_hostLog :
    (s.raiseEvent .linkWriteTimeout).hostLog = s.hostLog ++ [.linkWriteTimeout] := rfl
@[simp] theorem raiseEvent_fatalLinkError_out :
    (s.raiseEvent .fatalLinkError).out = s.out := rfl
@[simp] theorem raiseEvent_fatalLinkError_deviceLog :
    (s.raiseEvent .fatalLinkError).deviceLog = s.deviceLog := rfl
@[simp] theorem raiseEvent_fatalLinkError_hostLog :
    (s.raiseEvent .fatalLinkError).hostLog = s.hostLog ++ [.fatalLinkError] := rfl
@[simp] theorem raiseEvent_mapperRange_out (v : MapperOperand) :
    (s.raiseEvent (.mapperRange v)).out = s.out := rfl
@[simp] theorem raiseEvent_mapperRange_deviceLog (v : MapperOperand) :
    (s.raiseEvent (.mapperRange v)).deviceLog = s.deviceLog := rfl
@[simp] theorem raiseEvent_mapperRange_hostLog (v : MapperOperand) :
    (s.raiseEvent (.mapperRange v)).hostLog = s.hostLog ++ [.mapperRange v] := rfl

/-! ### The outputs and the Decoder's reset value -/

@[simp] theorem outputs_none_msg : Outputs.none.msg = none := rfl
@[simp] theorem outputs_none_ferr : Outputs.none.ferr = none := rfl
@[simp] theorem idle_op : Decoder.idle.op = none := rfl
@[simp] theorem idle_acc : Decoder.idle.acc = [] := rfl
@[simp] theorem idle_rem : Decoder.idle.rem = 0 := rfl

end Sys2Proof.Machine
end

