-- ==== Sys2Proof/Laws/Decoder.lean ====
section
/-! SUPPORT. What the Decoder does with one byte: the case analysis of R86 to R91 said once. -/

namespace Sys2Proof.Machine

theorem action_idle (d : Decoder) (b : Byte) (h : d.op = none) : d.action b = opcodeAction b := by
  simp [Decoder.action, h]

theorem action_collecting (d : Decoder) (o b : Byte) (h : d.op = some o) :
    d.action b = payloadAction o d.acc d.rem b := by
  simp [Decoder.action, h]

theorem opcodeAction_resync : opcodeAction resyncByte = .run .resync := by simp [opcodeAction]

theorem opcodeAction_unknown {b : Byte} (h0 : b ≠ resyncByte) (h : known b = false) :
    opcodeAction b = .framingError b := by
  have hk : kindOf b = none := by simpa [known] using h
  simp [opcodeAction, h0, plen, hk]

theorem opcodeAction_opcode (k : MessageKind) (h : 1 ≤ k.payloadLen) :
    opcodeAction k.opcode = .collect { op := some k.opcode, acc := [], rem := k.payloadLen } := by
  obtain ⟨n, hn⟩ : ∃ n, k.payloadLen = n + 1 := ⟨k.payloadLen - 1, by omega⟩
  simp [opcodeAction, opcode_ne_resyncByte, hn]

theorem opcodeAction_payloadless (m : WireMessage) (h : m.kind.payloadLen = 0) :
    opcodeAction m.tag = .run m.toInstr := by
  cases m <;> first | rfl | cases h

/-- What a byte in the opcode position can do (R86 to R89). -/
theorem opcodeAction_cases (b : Byte) :
    (b = resyncByte ∧ opcodeAction b = .run .resync) ∨
    (∃ m : WireMessage, b = m.tag ∧ m.kind.payloadLen = 0 ∧ opcodeAction b = .run m.toInstr) ∨
    (∃ k : MessageKind, b = k.opcode ∧ 1 ≤ k.payloadLen ∧
      opcodeAction b = .collect { op := some b, acc := [], rem := k.payloadLen }) ∨
    (b ≠ resyncByte ∧ known b = false ∧ opcodeAction b = .framingError b) := by
  by_cases h0 : b = resyncByte
  · exact .inl ⟨h0, h0 ▸ opcodeAction_resync⟩
  · cases hk : kindOf b with
    | none =>
      have h : known b = false := by simp [known, hk]
      exact .inr (.inr (.inr ⟨h0, h, opcodeAction_unknown h0 h⟩))
    | some k =>
      obtain rfl := opcode_of_kindOf hk
      by_cases hp : 1 ≤ k.payloadLen
      · exact .inr (.inr (.inl ⟨k, rfl, hp, opcodeAction_opcode k hp⟩))
      · refine .inr (.inl ?_)
        obtain ⟨m, -, rfl⟩ := build_of_length k [] (by simp; omega)
        exact ⟨m, rfl, by omega, opcodeAction_payloadless m (by omega)⟩

theorem wf_idle : Decoder.idle.wf = true := rfl

theorem eq_idle_of_wf {d : Decoder} (h : d.wf = true) (ho : d.op = none) : d = Decoder.idle := by
  cases d
  simp_all [Decoder.wf, Decoder.idle]

/-- A Decoder that collects, within R21: its opcode is one of the table's and the counts add up. -/
theorem collecting_of_wf {d : Decoder} {o : Byte} (h : d.wf = true) (ho : d.op = some o) :
    ∃ k : MessageKind, o = k.opcode ∧ 1 ≤ d.rem ∧ d.acc.length + d.rem = k.payloadLen := by
  simp only [Decoder.wf, ho, Bool.and_eq_true, decide_eq_true_eq] at h
  obtain ⟨k, hk, hn⟩ := plen_eq_some h.2
  exact ⟨k, hk, h.1, hn⟩

/-- What a byte in a payload position does (R90, R91), within R21. -/
theorem payloadAction_cases (k : MessageKind) (acc : List Byte) (r : Nat) (b : Byte)
    (hr : 1 ≤ r) (hl : acc.length + r = k.payloadLen) :
    (2 ≤ r ∧ payloadAction k.opcode acc r b =
      .collect { op := some k.opcode, acc := acc ++ [b], rem := r - 1 }) ∨
    (r = 1 ∧ ∃ m : WireMessage, m.kind = k ∧ k.build (acc ++ [b]) = some m.toInstr ∧
      payloadAction k.opcode acc r b = .run m.toInstr) := by
  match r, hr with
  | 1, _ =>
    obtain ⟨m, hm, hk⟩ := build_of_length k (acc ++ [b]) (by simpa using hl)
    exact .inr ⟨rfl, m, hk, hm, by simp [payloadAction, hm]⟩
  | r + 2, _ => exact .inl ⟨by omega, rfl⟩

/-! ### `feed` in terms of the action -/

theorem feed_resync {d : Decoder} {b : Byte} (h : d.action b = .run .resync) :
    feed d b = some { dec := d, msg := none, ferr := none } := by
  simp [feed, h]

theorem feed_message {d : Decoder} {b : Byte} {m : WireMessage} (h : d.action b = .run m.toInstr) :
    feed d b = some { dec := Decoder.idle, msg := some m, ferr := none } := by
  cases m <;> simp [feed, h, WireMessage.toInstr, instrMessage]

theorem feed_collect {d d' : Decoder} {b : Byte} (h : d.action b = .collect d') :
    feed d b = some { dec := d', msg := none, ferr := none } := by
  simp [feed, h]

theorem feed_framingError {d : Decoder} {b e : Byte} (h : d.action b = .framingError e) :
    feed d b = some { dec := Decoder.idle, msg := none, ferr := some e } := by
  simp [feed, h]

end Sys2Proof.Machine
end

