-- ==== Sys2Proof/Laws/Mapper.lean ====
section
/-! SUPPORT. The CoordinateMapper's small lemmas: what a legal configuration says, and the extents. -/

namespace Sys2Proof.Geometry

theorem legal_iff (g : Geometry) : g.legal = true ↔ 1 ≤ g.R ∧ 1 ≤ g.C ∧ g.num ≤ 65535 := by
  simp [legal, and_assoc]

theorem valid_iff (g : Geometry) (x y : Nat) : g.valid x y = true ↔ x < g.W ∧ y < g.H := by
  simp [valid]

/-- The four values of `ROT`. -/
theorem rot_cases (g : Geometry) :
    (g.rot = 0#2 ∧ g.rotation = .deg0) ∨ (g.rot = 1#2 ∧ g.rotation = .deg90) ∨
    (g.rot = 2#2 ∧ g.rotation = .deg180) ∨ (g.rot = 3#2 ∧ g.rotation = .deg270) := by
  have h : ∀ b : BitVec 2, (b = 0#2 ∧ Rotation.ofBits b = .deg0) ∨ (b = 1#2 ∧ Rotation.ofBits b = .deg90) ∨
      (b = 2#2 ∧ Rotation.ofBits b = .deg180) ∨ (b = 3#2 ∧ Rotation.ofBits b = .deg270) := by decide
  exact h g.rot

/-- A physical column's run of addresses ends where the next column's begins. -/
theorem column_run_le {g : Geometry} {pc : Nat} (h : pc < g.C) : pc * g.R + g.R ≤ g.num := by
  have : (pc + 1) * g.R ≤ g.C * g.R := Nat.mul_le_mul_right _ h
  rw [num, Nat.mul_comm g.R]
  linarith [Nat.succ_mul pc g.R]

end Sys2Proof.Geometry
end

