-- ==== Sys2Proof/Laws/PerInstr.lean ====
section
/-! SUPPORT. Statements made per instruction: the length and the first byte of every encoding (R47, R61). -/

namespace Sys2Proof.Laws

/-- An encoding has 1 to 6 bytes, and its first byte is the resync byte or a known opcode whose payload length it has. -/
def EncodeShape.Statement (i : Instr) : Prop :=
  i.wellFormed = true ∧ 1 ≤ (encode i).length ∧ (encode i).length ≤ 6 ∧
  ((encode i).head? = some resyncByte ∨
    ∃ o n, (encode i).head? = some o ∧ plen o = some n ∧ (encode i).length = 1 + n)

theorem EncodeShape.init (n : U16) : EncodeShape.Statement (.init n) := by
  refine ⟨by simp [Instr.wellFormed, n.isLt], by simp [encode, le16], by simp [encode, le16], .inr ⟨_, 2, rfl, rfl, rfl⟩⟩

theorem EncodeShape.clear : EncodeShape.Statement .clear := by
  refine ⟨rfl, by simp [encode], by simp [encode], .inr ⟨_, 0, rfl, rfl, rfl⟩⟩

theorem EncodeShape.showPixels : EncodeShape.Statement .showPixels := by
  refine ⟨rfl, by simp [encode], by simp [encode], .inr ⟨_, 0, rfl, rfl, rfl⟩⟩

theorem EncodeShape.setPixel (a : U16) (r g b : Byte) : EncodeShape.Statement (.setPixel a r g b) := by
  refine ⟨by simp [Instr.wellFormed, a.isLt, r.isLt, g.isLt, b.isLt], by simp [encode, le16], by simp [encode, le16],
    .inr ⟨_, 5, rfl, rfl, rfl⟩⟩

theorem EncodeShape.setClock (t : U32) : EncodeShape.Statement (.setClock t) := by
  refine ⟨by simp [Instr.wellFormed, t.isLt], by simp [encode, le32], by simp [encode, le32], .inr ⟨_, 4, rfl, rfl, rfl⟩⟩

theorem EncodeShape.setAutoRender (e : Bool) : EncodeShape.Statement (.setAutoRender e) := by
  refine ⟨rfl, by simp [encode], by simp [encode], .inr ⟨_, 1, rfl, rfl, rfl⟩⟩

theorem EncodeShape.suspendHost (s : U16) : EncodeShape.Statement (.suspendHost s) := by
  refine ⟨by simp [Instr.wellFormed, s.isLt], by simp [encode, le16], by simp [encode, le16], .inr ⟨_, 2, rfl, rfl, rfl⟩⟩

theorem EncodeShape.resync : EncodeShape.Statement .resync := by
  refine ⟨rfl, by simp [encode], by simp [encode], .inl rfl⟩

end Sys2Proof.Laws
end

