-- ==== Sys2Proof/Laws/Step.lean ====
section
/-! SUPPORT. What a step can do, said once: the inversion lemmas of the instructions, of the two agents, and of the
step. -/

namespace Sys2Proof.Machine

/-- Running an instruction always completes, and is either the resync or the emission of its message. -/
theorem exec_cases (i : Instr) (s : State) :
    (i = .resync ∧ exec i s = .next { s with out := Outputs.none }) ∨
    (∃ m : WireMessage, i = m.toInstr ∧ exec i s = .next (s.emitMessage m)) := by
  rcases eq_resync_or_toInstr i with rfl | ⟨m, rfl⟩
  · exact .inl ⟨rfl, rfl⟩
  · exact .inr ⟨m, rfl, by cases m <;> rfl⟩

theorem exec_toInstr (m : WireMessage) (s : State) : exec m.toInstr s = .next (s.emitMessage m) := by
  cases m <;> rfl

/-- A Decoder step that answers a next state. -/
theorem deviceByte_cases {b : Byte} {s t : State} (h : deviceByte b s = .next t) :
    (s.dec.action b = .run .resync ∧ t = { s with out := Outputs.none }) ∨
    (∃ m : WireMessage, s.dec.action b = .run m.toInstr ∧ t = s.emitMessage m) ∨
    (∃ d, s.dec.action b = .collect d ∧ t = s.setDecoder d) ∨
    (∃ e, s.dec.action b = .framingError e ∧
      t = (s.setDecoder Decoder.idle).raiseEvent (.framingError e)) := by
  unfold deviceByte at h
  split at h
  · next i hi =>
    rcases exec_cases i s with ⟨rfl, he⟩ | ⟨m, rfl, he⟩
    · rw [he] at h; cases h; exact .inl ⟨hi, rfl⟩
    · rw [he] at h; cases h; exact .inr (.inl ⟨m, hi, rfl⟩)
  · next d hd => cases h; exact .inr (.inr (.inl ⟨d, hd, rfl⟩))
  · next e he => cases h; exact .inr (.inr (.inr ⟨e, he, rfl⟩))
  · cases h

/-- The load that answers a next state. -/
theorem loadConfiguration_next {s t : State} (h : loadConfiguration s = .next t) :
    s.loaded = false ∧ s.params.geometry.legal = true ∧ t = State.finish { s with loaded := true } .ok := by
  unfold loadConfiguration at h
  split at h
  · cases h
  · next hn =>
    split at h
    · next hl => cases h; exact ⟨by simpa using hn, hl, rfl⟩
    · cases h

/-- What `withConfiguration` guards has its step only under a loaded, legal configuration. -/
theorem withConfiguration_next {s t : State} {f : Geometry → Host.Outcome State Fault Refusal}
    (h : withConfiguration s f = .next t) :
    s.loaded = true ∧ s.params.geometry.legal = true ∧ f s.params.geometry = .next t := by
  unfold withConfiguration at h
  split at h
  · next hd =>
    split at h
    · next hl => exact ⟨hd, hl, h⟩
    · cases h
  · cases h

/-- Under a loaded, legal configuration the guard is transparent. -/
theorem withConfiguration_legal {s : State} (f : Geometry → Host.Outcome State Fault Refusal)
    (hd : s.loaded = true) (hl : s.params.geometry.legal = true) : withConfiguration s f = f s.params.geometry := by
  simp [withConfiguration, hd, hl]

/-- Before the load nothing it guards has a step. -/
theorem withConfiguration_unloaded {s : State} (f : Geometry → Host.Outcome State Fault Refusal)
    (hd : s.loaded = false) : withConfiguration s f = .refused .configurationNotLoaded := by
  simp [withConfiguration, hd]

/-- Under an illegal configuration nothing it guards has a step. -/
theorem withConfiguration_illegal {s : State} (f : Geometry → Host.Outcome State Fault Refusal)
    (hd : s.loaded = true) (hl : s.params.geometry.legal = false) :
    withConfiguration s f = .refused .illegalConfiguration := by
  simp [withConfiguration, hd, hl]

/-- A call that answers a next state: the thread was ready, and it is the load, or one of the operations that need the
configuration loaded and legal. -/
theorem hostCall_cases {c : HostCall} {s t : State} (h : hostCall c s = .next t) :
    s.thread = .ready ∧ s.params.geometry.legal = true ∧
    ((c = .loadConfiguration ∧ s.loaded = false ∧ t = State.finish { s with loaded := true } .ok) ∨
     (c = .openLink ∧ s.loaded = true ∧ s.link = .closed ∧ t = { s with thread := .opening }) ∨
     (∃ m, c = .send m ∧ s.loaded = true ∧ s.link = .opened ∧
        t = s.issueWrite (encodeMessage m) (.writing (encodeMessage m))) ∨
     (∃ x y, c = .toPhysical x y ∧ s.loaded = true ∧
        ((∃ a, s.params.geometry.toPhysical x y = .ok a ∧ t = s.finish (.address a)) ∨
         (∃ v, s.params.geometry.toPhysical x y = .error v ∧ t = mapperFault v s))) ∨
     (∃ a, c = .toLogical a ∧ s.loaded = true ∧
        ((∃ x y, s.params.geometry.toLogical a = .ok (x, y) ∧ t = s.finish (.coordinate x y)) ∨
         (∃ v, s.params.geometry.toLogical a = .error v ∧ t = mapperFault v s)))) := by
  unfold hostCall at h
  split at h
  case h_1 ht =>
    refine ⟨ht, ?_⟩
    split at h
    · obtain ⟨hn, hl, rfl⟩ := loadConfiguration_next h
      exact ⟨hl, .inl ⟨rfl, hn, rfl⟩⟩
    · unfold callOpen at h
      split at h
      · next hc =>
        obtain ⟨hd, hl, h⟩ := withConfiguration_next h
        cases h; exact ⟨hl, .inr (.inl ⟨rfl, hd, hc, rfl⟩)⟩
      · cases h
      · cases h
    · next m =>
      unfold callSend at h
      split at h
      · next ho =>
        obtain ⟨hd, hl, h⟩ := withConfiguration_next h
        cases h; exact ⟨hl, .inr (.inr (.inl ⟨m, rfl, hd, ho, rfl⟩))⟩
      · cases h
      · cases h
    · next x y =>
      obtain ⟨hd, hl, h⟩ := withConfiguration_next h
      refine ⟨hl, .inr (.inr (.inr (.inl ⟨x, y, rfl, hd, ?_⟩)))⟩
      split at h
      · next a ha => cases h; exact .inl ⟨a, ha, rfl⟩
      · next v hv => cases h; exact .inr ⟨v, hv, rfl⟩
    · next a =>
      obtain ⟨hd, hl, h⟩ := withConfiguration_next h
      refine ⟨hl, .inr (.inr (.inr (.inr ⟨a, rfl, hd, ?_⟩)))⟩
      split at h
      · next x y hxy => cases h; exact .inl ⟨x, y, hxy, rfl⟩
      · next v hv => cases h; exact .inr ⟨v, hv, rfl⟩
  all_goals cases h

theorem timeoutStep_next {bs : List Byte} {k : Nat} {t u : State} (h : timeoutStep bs k t = .next u) :
    k ≤ bs.length ∧ u = t := by
  unfold timeoutStep at h
  split at h
  · next hk => cases h; exact ⟨hk, rfl⟩
  · cases h

/-- An answer that answers a next state, by the place where the host's thread waited. -/
theorem hostAnswer_cases {a : Answer} {s t : State} (h : hostAnswer a s = .next t) :
    (s.thread = .opening ∧ a = .openOk ∧ t = s.linkOpened.finish .ok) ∨
    (∃ bs, s.thread = .writing bs ∧ a = .writeOk ∧ t = s.finish .ok) ∨
    (∃ bs k, s.thread = .writing bs ∧ a = .writeTimeout k ∧ k ≤ bs.length ∧
      t = { s.raiseEvent .linkWriteTimeout with link := .closed, thread := .reopening bs }) ∨
    (∃ bs, s.thread = .reopening bs ∧ a = .openOk ∧
      t = s.linkOpened.issueWrite (zeros s.params.resyncLen) (.resyncing bs)) ∨
    (∃ bs, s.thread = .resyncing bs ∧ a = .writeOk ∧ t = s.issueWrite bs (.retrying bs)) ∨
    (∃ bs, s.thread = .retrying bs ∧ a = .writeOk ∧ t = s.finish .ok) ∨
    (t = s.failFatally ∧
      ((s.thread = .opening ∧ a = .openFail) ∨ (∃ bs, s.thread = .reopening bs ∧ a = .openFail) ∨
       (∃ bs k, s.thread = .resyncing bs ∧ a = .writeTimeout k) ∨
       (∃ bs k, s.thread = .retrying bs ∧ a = .writeTimeout k))) := by
  unfold hostAnswer at h
  split at h
  · cases h
  · next ht =>
    cases a <;> simp only [answerOpening] at h <;> cases h
    · exact .inl ⟨ht, rfl, rfl⟩
    · exact .inr (.inr (.inr (.inr (.inr (.inr ⟨rfl, .inl ⟨ht, rfl⟩⟩)))))
  · next bs ht =>
    cases a <;> simp only [answerWriting] at h
    · cases h; exact .inr (.inl ⟨bs, ht, rfl, rfl⟩)
    · next k =>
      obtain ⟨hk, rfl⟩ := timeoutStep_next h
      exact .inr (.inr (.inl ⟨bs, k, ht, rfl, hk, rfl⟩))
    · cases h
    · cases h
  · next bs ht =>
    cases a <;> simp only [answerReopening] at h <;> cases h
    · exact .inr (.inr (.inr (.inl ⟨bs, ht, rfl, rfl⟩)))
    · exact .inr (.inr (.inr (.inr (.inr (.inr ⟨rfl, .inr (.inl ⟨bs, ht, rfl⟩)⟩)))))
  · next bs ht =>
    cases a <;> simp only [answerResyncing] at h
    · cases h; exact .inr (.inr (.inr (.inr (.inl ⟨bs, ht, rfl, rfl⟩))))
    · next k =>
      obtain ⟨-, rfl⟩ := timeoutStep_next h
      exact .inr (.inr (.inr (.inr (.inr (.inr ⟨rfl, .inr (.inr (.inl ⟨bs, k, ht, rfl⟩))⟩)))))
    · cases h
    · cases h
  · next bs ht =>
    cases a <;> simp only [answerRetrying] at h
    · cases h; exact .inr (.inr (.inr (.inr (.inr (.inl ⟨bs, ht, rfl, rfl⟩)))))
    · next k =>
      obtain ⟨-, rfl⟩ := timeoutStep_next h
      exact .inr (.inr (.inr (.inr (.inr (.inr ⟨rfl, .inr (.inr (.inr ⟨bs, k, ht, rfl⟩))⟩)))))
    · cases h
    · cases h

/-! ### The step on each input -/

theorem step_nil {s : State} (h : s.inputs = []) : step s = .next (s.takeInput []) := by
  simp [step, h, waitForInput]

theorem step_read_nil {s : State} {rest : List Input} (h : s.inputs = .read [] :: rest) :
    step s = .next (s.takeInput rest) := by
  simp [step, h, runInput, deviceRead]

theorem step_read_cons {s : State} {b : Byte} {c : List Byte} {rest : List Input}
    (h : s.inputs = .read (b :: c) :: rest) : step s = deviceByte b (s.takeInput (readRest c rest)) := by
  simp [step, h, runInput, deviceRead]

theorem step_rst {s : State} {rest : List Input} (h : s.inputs = .rst :: rest) :
    step s = .next (s.takeInput rest).assertRst := by
  simp [step, h, runInput]

theorem step_call {s : State} {c : HostCall} {rest : List Input} (h : s.inputs = .call c :: rest) :
    step s = hostCall c (s.takeInput rest) := by
  simp [step, h, runInput]

theorem step_answer {s : State} {a : Answer} {rest : List Input} (h : s.inputs = .answer a :: rest) :
    step s = hostAnswer a (s.takeInput rest) := by
  simp [step, h, runInput]

theorem step_hostStart {s : State} {rest : List Input} (h : s.inputs = .hostStart :: rest) :
    step s = .next (s.takeInput rest).restartHost := by
  simp [step, h, runInput]

/-- A step that answers a next state, by the input that moved it. -/
theorem step_cases {s t : State} (h : step s = .next t) :
    (s.inputs = [] ∧ t = s.takeInput []) ∨
    (∃ rest, s.inputs = .read [] :: rest ∧ t = s.takeInput rest) ∨
    (∃ b c rest, s.inputs = .read (b :: c) :: rest ∧
      deviceByte b (s.takeInput (readRest c rest)) = .next t) ∨
    (∃ rest, s.inputs = .rst :: rest ∧ t = (s.takeInput rest).assertRst) ∨
    (∃ c rest, s.inputs = .call c :: rest ∧ hostCall c (s.takeInput rest) = .next t) ∨
    (∃ a rest, s.inputs = .answer a :: rest ∧ hostAnswer a (s.takeInput rest) = .next t) ∨
    (∃ rest, s.inputs = .hostStart :: rest ∧ t = (s.takeInput rest).restartHost) := by
  cases hi : s.inputs with
  | nil => rw [step_nil hi] at h; cases h; exact .inl ⟨rfl, rfl⟩
  | cons i rest =>
    cases i with
    | read chunk =>
      cases chunk with
      | nil => rw [step_read_nil hi] at h; cases h; exact .inr (.inl ⟨rest, rfl, rfl⟩)
      | cons b c =>
        rw [step_read_cons hi] at h
        exact .inr (.inr (.inl ⟨b, c, rest, rfl, h⟩))
    | rst => rw [step_rst hi] at h; cases h; exact .inr (.inr (.inr (.inl ⟨rest, rfl, rfl⟩)))
    | call c => rw [step_call hi] at h; exact .inr (.inr (.inr (.inr (.inl ⟨c, rest, rfl, h⟩))))
    | answer a => rw [step_answer hi] at h; exact .inr (.inr (.inr (.inr (.inr (.inl ⟨a, rest, rfl, h⟩)))))
    | hostStart =>
      rw [step_hostStart hi] at h; cases h
      exact .inr (.inr (.inr (.inr (.inr (.inr ⟨rest, rfl, rfl⟩)))))

/-! ### Runs -/

theorem run_zero (s : State) : run 0 s = .next s := rfl

theorem run_succ {s u : State} {k : Nat} (h : step s = .next u) : run (k + 1) s = run k u := by
  have h' : Sys2Proof.core.step s = .next u := h
  simp only [run, Host.Core.run, h']
  rfl

theorem run_one {s u : State} (h : step s = .next u) : run 1 s = .next u := by
  rw [run_succ h, run_zero]

theorem run_add {s u : State} {j k : Nat} (h : run j s = .next u) : run (j + k) s = run k u := by
  induction j generalizing s with
  | zero => cases h; simp
  | succ j ih =>
    rw [Nat.succ_add]
    cases hs : step s with
    | next v =>
      rw [run_succ hs] at h ⊢
      exact ih h
    | fault r =>
      have hs' : Sys2Proof.core.step s = .fault r := hs
      simp [run, Host.Core.run, hs'] at h
    | refused r =>
      have hs' : Sys2Proof.core.step s = .refused r := hs
      simp [run, Host.Core.run, hs'] at h

end Sys2Proof.Machine
end

