-- ==== Sys2Proof/Tests/Slice0.lean ====
section
/-! SUPPORT. The package's own tests. Expected results are the spec's: the encoding patterns of R49 to R53, and the
vectors of spec/95_test_vectors.md, named where they are used. The second half shows, for each statement with
hypotheses, a state and operands that meet them. -/

open Sys2Proof Sys2Proof.Machine

namespace Sys2Proof.Tests

/-! ### Helpers -/

/-- A geometry of `r` rows and `c` columns. -/
def panel (r c : U16) (rot : BitVec 2) : Geometry := { rows := r, columns := c, rot := rot }

/-- A state after reset on a platform with `RESYNC_LEN = 5` (as the vectors of section 5 take it), in a run whose
configuration is `g`, not loaded yet, with these inputs. -/
def withPanel (g : Geometry) (ins : List Input) : State :=
  { State.reset with params := { resyncLen := 5, deviceSeesReopen := false, geometry := g }, inputs := ins }

/-- That state with the 3 by 4 panel of section 4.1. -/
def quiet (ins : List Input) : State := withPanel (panel 3#16 4#16 0#2) ins

/-- The state of `withPanel` with its configuration loaded. -/
def configured (g : Geometry) (ins : List Input) : State := { withPanel g ins with loaded := true }

/-- The state of `quiet` with its configuration loaded and its link open. -/
def online (ins : List Input) : State := { configured (panel 3#16 4#16 0#2) ins with link := .opened }

theorem panel_legal : (panel 3#16 4#16 0#2).legal = true := by decide

/-- That state with the Decoder at `Collecting(o)`. -/
def collecting (o : Byte) (acc : List Byte) (r : Nat) (ins : List Input) : State :=
  { quiet ins with dec := { op := some o, acc := acc, rem := r } }

/-- Whether a step answers a next state with this property. -/
def answersNext (o : Host.Outcome State Fault Refusal) (p : State → Bool) : Bool :=
  match o with
  | .next t => p t
  | .fault _ => false
  | .refused _ => false

/-- Whether a step is refused for this reason. -/
def answersRefused (o : Host.Outcome State Fault Refusal) (r : Refusal) : Bool :=
  match o with
  | .next _ => false
  | .fault _ => false
  | .refused r' => decide (r' = r)

/-- The addresses of `to_physical` for `y = 0, 1, ...` and `x = 0, 1, ...`, as section 4.1 lays its tables out. -/
def addressTable (g : Geometry) : List (List Nat) :=
  (List.range g.H).map fun y => (List.range g.W).map fun x =>
    match g.toPhysical (BitVec.ofNat 16 x) (BitVec.ofNat 16 y) with
    | .ok a => a.toNat
    | .error _ => 65536

/-- The coordinate of `to_logical`. -/
def logicalOf (g : Geometry) (a : U16) : Option (Nat × Nat) :=
  match g.toLogical a with
  | .ok (x, y) => some (x.toNat, y.toNat)
  | .error _ => none

/-! ### Well-formedness: one ill-formed term for each check (R59) -/

theorem test_wf_init_refused : (MessageTerm.init 65536).wellFormed = false := by decide
theorem test_wf_setPixel_addr_refused : (MessageTerm.setPixel 65536 0 0 0).wellFormed = false := by decide
theorem test_wf_setPixel_r_refused : (MessageTerm.setPixel 0 256 0 0).wellFormed = false := by decide
theorem test_wf_setPixel_g_refused : (MessageTerm.setPixel 0 0 256 0).wellFormed = false := by decide
theorem test_wf_setPixel_b_refused : (MessageTerm.setPixel 0 0 0 256).wellFormed = false := by decide
theorem test_wf_setClock_refused : (MessageTerm.setClock 4294967296).wellFormed = false := by decide
theorem test_wf_suspendHost_refused : (MessageTerm.suspendHost 65536).wellFormed = false := by decide
theorem test_wf_instr : (Instr.setPixel 0xFFFF#16 255#8 255#8 255#8).wellFormed = true := by decide
theorem test_wf_rows_zero_refused : (panel 0#16 4#16 0#2).legal = false := by decide
theorem test_wf_columns_zero_refused : (panel 3#16 0#16 0#2).legal = false := by decide
theorem test_wf_num_65536_refused : (panel 256#16 256#16 0#2).legal = false := by decide
theorem test_wf_num_65535_legal : (panel 255#16 257#16 3#2).legal = true := by decide
theorem test_wf_decoder_rem_zero_refused : ({ op := some 0x69#8, acc := [1#8, 2#8], rem := 0 } : Decoder).wf = false := by
  decide
theorem test_wf_decoder_count_refused : ({ op := some 0x69#8, acc := [], rem := 1 } : Decoder).wf = false := by decide
theorem test_wf_decoder_opcode_refused : ({ op := some 0x41#8, acc := [], rem := 1 } : Decoder).wf = false := by decide
theorem test_wf_decoder_idle_acc_refused : ({ op := none, acc := [0#8], rem := 0 } : Decoder).wf = false := by decide
theorem test_wf_decoder_idle_rem_refused : ({ op := none, acc := [], rem := 1 } : Decoder).wf = false := by decide

/-! ### Decoding, from words written out bit by bit (R49 to R53, R56) -/

/-- `OP_U16`, opcode `01101001`, v = `00110100`, V = `00010010` (E4). -/
theorem test_decode_init :
    decodeTableWord 24 0b000100100011010001101001 = some (.init 0x1234#16) := by decide
/-- `OP`, opcode `01100011` (E6). -/
theorem test_decode_clear : decodeTableWord 8 0b01100011 = some .clear := by decide
/-- `OP`, opcode `01110011` (E7). -/
theorem test_decode_show : decodeTableWord 8 0b01110011 = some .showPixels := by decide
/-- `OP_PIX`, opcode `01101100`, a = `00000010`, A = `00000001`, r, g, b = 1, 2, 3 (E10). -/
theorem test_decode_setPixel :
    decodeTableWord 48 0b000000110000001000000001000000010000001001101100 =
      some (.setPixel 0x0102#16 1#8 2#8 3#8) := by decide
/-- `OP_U32`, opcode `01000000`, t, u, w, z = `78 56 34 12` (E14). -/
theorem test_decode_setClock :
    decodeTableWord 40 0b0001001000110100010101100111100001000000 = some (.setClock 0x12345678#32) := by decide
/-- `OP_B`, opcode `01110100`, e = `00000000` (E17). -/
theorem test_decode_setAutoRender_false :
    decodeTableWord 16 0b0000000001110100 = some (.setAutoRender false) := by decide
/-- `OP_B`, opcode `01110100`, e = `10000000` (DV21). -/
theorem test_decode_setAutoRender_true :
    decodeTableWord 16 0b1000000001110100 = some (.setAutoRender true) := by decide
/-- `OP_U16`, opcode `01010011`, v = `00101100`, V = `00000001` (E20). -/
theorem test_decode_suspendHost :
    decodeTableWord 24 0b000000010010110001010011 = some (.suspendHost 300#16) := by decide
/-- The resync byte `00000000` (R56). -/
theorem test_decode_resync : decodeTableWord 8 0b00000000 = some .resync := by decide
/-- Unknown opcodes are rejected by name (DV8, DV9). -/
theorem test_decode_unknown : decode [0x01#8] = .error (.unknownOpcode 0x01#8) ∧
    decode [0x49#8, 0x00#8, 0x00#8] = .error (.unknownOpcode 0x49#8) := ⟨rfl, rfl⟩
/-- A message whose payload has not all arrived is no instruction yet (DV23). -/
theorem test_decode_truncated : decode [0x69#8, 0x0C#8] = .error .truncated := rfl

/-! ### The Encoder (section 2) -/

theorem test_encode_init : encodeMessage (.init 256#16) = [0x69#8, 0x00#8, 0x01#8] := by decide
theorem test_encode_setPixel :
    encodeMessage (.setPixel 0x0073#16 0x69#8 0x63#8 0x40#8) = [0x6C#8, 0x73#8, 0x00#8, 0x69#8, 0x63#8, 0x40#8] := by
  decide
theorem test_encode_setClock :
    encodeMessage (.setClock 1700000000#32) = [0x40#8, 0x00#8, 0xF1#8, 0x53#8, 0x65#8] := by decide
theorem test_encode_setAutoRender : encodeMessage (.setAutoRender true) = [0x74#8, 0x01#8] := by decide
theorem test_encode_suspendHost : encodeMessage (.suspendHost 300#16) = [0x53#8, 0x2C#8, 0x01#8] := by decide
theorem test_max_payload : (MessageKind.all.map MessageKind.payloadLen).foldl Nat.max 0 = Config.maxPayload ∧
    Config.maxMsgLen = 1 + Config.maxPayload := by decide

/-! ### Each instruction as the first after reset -/

theorem test_first_init :
    answersNext (step (State.reset.withFetchWord 24 0x000C69)) (fun t => decide (t.consumer = [.init 12#16])) = true := by
  decide
theorem test_first_clear :
    answersNext (step (State.reset.withFetchWord 8 0x63)) (fun t => decide (t.consumer = [.clear])) = true := by decide
theorem test_first_show :
    answersNext (step (State.reset.withFetchWord 8 0x73)) (fun t => decide (t.out.msg = some .showPixels)) = true := by
  decide
theorem test_first_setPixel :
    answersNext (step (State.reset.withFetchWord 48 0x0000FF00006C))
      (fun t => decide (t.consumer = [.setPixel 0#16 255#8 0#8 0#8])) = true := by decide
theorem test_first_setClock :
    answersNext (step (State.reset.withFetchWord 40 0xFFFFFFFF40))
      (fun t => decide (t.consumer = [.setClock 4294967295#32])) = true := by decide
theorem test_first_setAutoRender :
    answersNext (step (State.reset.withFetchWord 16 0x0174))
      (fun t => decide (t.consumer = [.setAutoRender true]) && decide (t.dec = Decoder.idle)) = true := by decide
theorem test_first_suspendHost :
    answersNext (step (State.reset.withFetchWord 24 0x012C53))
      (fun t => decide (t.consumer = [.suspendHost 300#16])) = true := by decide
theorem test_first_resync :
    answersNext (step (State.reset.withFetchWord 8 0x00))
      (fun t => decide (t.consumer = []) && decide (t.dec = Decoder.idle) && decide (t.out = Outputs.none)) = true := by
  decide

/-! ### The Decoder (section 3) -/

/-- DV11. -/
theorem test_three_framing_errors : feedChunk Decoder.idle [0x41#8, 0x42#8, 0x43#8] =
    some { dec := Decoder.idle, msgs := [], ferrs := [0x41#8, 0x42#8, 0x43#8] } := by decide
/-- DV16. -/
theorem test_opcode_values_in_payload : feedChunk Decoder.idle [0x6C#8, 0x73#8, 0x00#8, 0x69#8, 0x63#8, 0x40#8] =
    some { dec := Decoder.idle, msgs := [.setPixel 115#16 105#8 99#8 64#8], ferrs := [] } := by decide
/-- DV24. -/
theorem test_zero_after_message : feedChunk Decoder.idle [0x74#8, 0x00#8, 0x00#8] =
    some { dec := Decoder.idle, msgs := [.setAutoRender false], ferrs := [] } := by decide
/-- DV25. -/
theorem test_lost_opcode : feedChunk Decoder.idle [0x73#8, 0x00#8, 0xFF#8, 0x00#8, 0x00#8] =
    some { dec := Decoder.idle, msgs := [.showPixels], ferrs := [0xFF#8] } := by decide
/-- Z6. -/
theorem test_zero_run_completes :
    feedChunk { op := some 0x6C#8, acc := [0xAB#8, 0xAB#8, 0xAB#8], rem := 2 } (zeros 5) =
      some { dec := Decoder.idle, msgs := [.setPixel 43947#16 171#8 0#8 0#8], ferrs := [] } := by decide
/-- Z15. -/
theorem test_short_zero_run : feedChunk { op := some 0x6C#8, acc := [], rem := 5 } (zeros 4) =
    some { dec := { op := some 0x6C#8, acc := zeros 4, rem := 1 }, msgs := [], ferrs := [] } := by decide
/-- DV12, one step. -/
theorem test_payload_zero_is_data :
    answersNext (step (collecting 0x6C#8 [0x05#8] 4 [.read [0x00#8]]))
      (fun t => decide (t.dec = { op := some 0x6C#8, acc := [0x05#8, 0x00#8], rem := 3 }) && decide (t.inputs = [])) =
      true := by decide
/-- DV13, one step, the rest of the read waiting. -/
theorem test_last_byte_emits :
    answersNext (step (collecting 0x69#8 [0x0C#8] 1 [.read [0x00#8, 0x63#8]]))
      (fun t => decide (t.out.msg = some (.init 12#16)) && decide (t.inputs = [.read [0x63#8]])) = true := by decide
/-- DV6, one step: the error is the output and the log's entry. -/
theorem test_framing_error :
    answersNext (step (quiet [.read [0x41#8]]))
      (fun t => decide (t.out.ferr = some 0x41#8) && decide (t.deviceLog = [.framingError 0x41#8])) = true := by decide
/-- R46: a read of no bytes is no Decoder step. -/
theorem test_empty_read :
    answersNext (step (collecting 0x69#8 [] 2 [.read []]))
      (fun t => decide (t.dec.rem = 2) && decide (t.inputs = [])) = true := by decide
/-- R85, R21: outside the invariant no rule applies. -/
theorem test_outside_invariant :
    step (collecting 0x69#8 [] 0 [.read [0x00#8]]) = .fault .decoderStateOutsideInvariant := rfl
/-- P2: the stream's lines expand to its twelve bytes. -/
theorem test_stream_p2 :
    expandStream 5 [.rawBytes [0x41#8], .resyncRun 2, .rawBytes [0x6C#8, 0x05#8, 0x00#8], .recovery, .message .showPixels] =
      [0x41#8, 0x00#8, 0x00#8, 0x6C#8, 0x05#8, 0x00#8, 0x00#8, 0x00#8, 0x00#8, 0x00#8, 0x00#8, 0x73#8] := by decide

/-! ### The CoordinateMapper (section 4) -/

theorem test_map_rot0 : addressTable (panel 3#16 4#16 0#2) =
    [[0, 5, 6, 11], [1, 4, 7, 10], [2, 3, 8, 9]] := by decide
theorem test_map_rot90 : addressTable (panel 3#16 4#16 1#2) =
    [[11, 10, 9], [6, 7, 8], [5, 4, 3], [0, 1, 2]] := by decide
theorem test_map_rot180 : addressTable (panel 3#16 4#16 2#2) =
    [[9, 8, 3, 2], [10, 7, 4, 1], [11, 6, 5, 0]] := by decide
theorem test_map_rot270 : addressTable (panel 3#16 4#16 3#2) =
    [[2, 1, 0], [3, 4, 5], [8, 7, 6], [9, 10, 11]] := by decide
theorem test_logical_7 : [0#2, 1#2, 2#2, 3#2].map (fun r => logicalOf (panel 3#16 4#16 r) 7#16) =
    [some (2, 1), some (1, 1), some (1, 1), some (1, 2)] := by decide
theorem test_logical_square_9 : [0#2, 1#2, 2#2, 3#2].map (fun r => logicalOf (panel 8#16 8#16 r) 9#16) =
    [some (1, 6), some (6, 6), some (6, 1), some (1, 1)] := by decide
/-- M1: `x = W` is a fault, never a wrap. -/
theorem test_map_fault :
    answersNext (step (configured (panel 3#16 4#16 0#2) [.call (.toPhysical 4#16 0#16)]))
      (fun t => decide (t.ret = some (.mapperRange (.coordinate 4#16 0#16))) &&
        decide (t.hostLog = [.mapperRange (.coordinate 4#16 0#16)])) = true := by decide
/-- M5. -/
theorem test_logical_fault :
    answersNext (step (configured (panel 3#16 4#16 1#2) [.call (.toLogical 12#16)]))
      (fun t => decide (t.ret = some (.mapperRange (.address 12#16)))) = true := by decide
/-- R69's example. -/
theorem test_logical_call :
    answersNext (step (configured (panel 3#16 4#16 3#2) [.call (.toLogical 7#16)]))
      (fun t => decide (t.ret = some (.coordinate 1#16 2#16))) = true := by decide

/-! ### The HostLink controller (section 5), one step each -/

/-- R128: neither `open` nor `send` before the configuration is loaded. -/
theorem test_boot_order :
    answersRefused (step (quiet [.call .openLink])) .configurationNotLoaded = true ∧
    answersRefused (step { quiet [.call (.send .clear)] with link := .opened }) .configurationNotLoaded = true := by
  decide

/-- HV1, HV2: the answers to `open`. -/
theorem test_open_ok :
    answersNext (step { quiet [.answer .openOk] with thread := .opening })
      (fun t => decide (t.link = .opened) && decide (t.ret = some .ok)) = true := by decide
theorem test_open_fail :
    answersNext (step { quiet [.answer .openFail] with thread := .opening })
      (fun t => decide (t.link = .failed) && decide (t.hostLog = [.fatalLinkError])) = true := by decide
/-- HV3, its first step: the write is the encoded message. -/
theorem test_send_writes :
    answersNext (step (online [.call (.send .showPixels)]))
      (fun t => decide (t.written = [[0x73#8]]) && decide (t.thread = .writing [0x73#8])) = true := by decide
/-- P4's first write: `Timeout(1)`. -/
theorem test_write_timeout :
    answersNext (step { online [.answer (.writeTimeout 1)] with thread := .writing [0x73#8] })
      (fun t => decide (t.link = .closed) && decide (t.hostLog = [.linkWriteTimeout]) &&
        decide (t.thread = .reopening [0x73#8])) = true := by decide
/-- R16: `k` is at most the length written. -/
theorem test_timeout_beyond_length :
    answersRefused (step { online [.answer (.writeTimeout 2)] with thread := .writing [0x73#8] })
      .answerOutsideContract = true := by decide
/-- P3, the reopen: the resync run is written; where the device sees the reopen its Decoder is reset. -/
theorem test_reopen_writes_run :
    answersNext (step { collecting 0x6C#8 [0x01#8] 4 [.answer .openOk] with thread := .reopening [0x73#8] })
      (fun t => decide (t.written = [zeros 5]) && decide (t.link = .opened) && decide (t.dec.rem = 4)) = true := by
  decide
theorem test_reopen_seen_resets :
    answersNext (step { collecting 0x6C#8 [0x01#8] 4 [.answer .openOk] with
        thread := .reopening [0x73#8],
        params := { resyncLen := 5, deviceSeesReopen := true, geometry := panel 3#16 4#16 0#2 } })
      (fun t => decide (t.dec = Decoder.idle) && decide (t.out = Outputs.none)) = true := by decide
/-- HV7: the run times out. -/
theorem test_run_timeout_is_fatal :
    answersNext (step { online [.answer (.writeTimeout 5)] with thread := .resyncing [0x73#8] })
      (fun t => decide (t.link = .failed) && decide (t.ret = some .fatalLinkError)) = true := by decide
/-- HV4's last step. -/
theorem test_retry_ok :
    answersNext (step { online [.answer .writeOk] with thread := .retrying [0x73#8] })
      (fun t => decide (t.link = .opened) && decide (t.ret = some .ok)) = true := by decide
/-- HV8, HV9, and a call while an operation is in progress (R3). -/
theorem test_send_refused :
    answersRefused (step { quiet [.call (.send .clear)] with link := .failed }) .sendWhileNotOpen = true ∧
    answersRefused (step (quiet [.call (.send .clear)])) .sendWhileNotOpen = true ∧
    answersRefused (step { online [.call (.send .clear)] with thread := .writing [0x73#8] }) .hostThreadBusy = true := by
  decide
theorem test_wait : answersNext (step (quiet [])) (fun t => decide (t = quiet [])) = true := by decide

/-! ### Witnesses: the hypotheses of every statement can be met -/

theorem inv_online : (online []).Inv :=
  ⟨rfl, fun _ => panel_legal, .inl rfl, Nat.le_refl 5, .inl rfl, trivial⟩

theorem witness_EveryStepKeepsTheInvariant : ∃ s t : State, s.Inv ∧ step s = .next t :=
  ⟨online [], _, inv_online, rfl⟩

/-- Both clauses: a step that ends Idle, and one that ends collecting at the last payload byte. -/
theorem witness_DecoderInvariantAfterEveryStep :
    (∃ s t : State, s.dec.wf = true ∧ step s = .next t ∧ t.dec.op = none) ∧
    (∃ s t : State, s.dec.wf = true ∧ step s = .next t ∧ t.dec.op = some 0x74#8) :=
  ⟨⟨quiet [.read [0x73#8]], _, by decide, rfl, rfl⟩, ⟨quiet [.read [0x74#8]], _, by decide, rfl, rfl⟩⟩

/-- The hypothesis on the payload byte, at its lowest value. -/
theorem witness_SetAutoRenderEncodesAndBuilds : ∃ p : Byte, p ≠ 0x00#8 ∧ build 0x74#8 [p] = some (.setAutoRender true) :=
  ⟨0x01#8, by decide, by decide⟩

/-- The converse: a `t` message that is not the encoding of what it decodes to, and one that is. -/
theorem witness_MessageRoundTripThroughTheDecoder :
    (plen 0x74#8 = some 1 ∧
      feedChunk Decoder.idle [0x74#8, 0x02#8] = some { dec := Decoder.idle, msgs := [.setAutoRender true], ferrs := [] }) ∧
    (plen 0x63#8 = some 0 ∧
      feedChunk Decoder.idle [0x63#8] = some { dec := Decoder.idle, msgs := [.clear], ferrs := [] }) ∧
    0 < (encodeMessage .clear).length := by decide

/-- Each range of R59 at both sides of its boundary. -/
theorem witness_MessageLinesAssemble :
    assembleTerm (.init 65535) = some (.init 65535#16) ∧ assembleTerm (.init 65536) = none ∧
    assembleTerm (.suspendHost 65535) = some (.suspendHost 65535#16) ∧
    assembleTerm (.setPixel 65535 255 255 255) = some (.setPixel 65535#16 255#8 255#8 255#8) ∧
    assembleTerm (.setPixel 0 0 0 256) = none ∧
    assembleTerm (.setClock 4294967295) = some (.setClock 4294967295#32) ∧
    assembleTerm (.setClock 4294967296) = none := by decide

theorem witness_InstructionsLeaveTheRestUnchanged :
    (∃ t, exec (.setPixel 1#16 2#8 3#8 4#8) (online []) = .next t) ∧ (∃ t, exec .resync (online []) = .next t) :=
  ⟨⟨_, rfl⟩, ⟨_, rfl⟩⟩

theorem witness_StepRunsTheDecodedInstruction :
    ∃ (s : State) (b : Byte) (c : List Byte) (rest : List Input) (i : Instr),
      s.dec.wf = true ∧ s.inputs = .read (b :: c) :: rest ∧
      decode (s.dec.op.toList ++ s.dec.acc ++ [b]) = .ok (i, []) :=
  ⟨collecting 0x69#8 [0x0C#8] 1 [.read [0x00#8]], 0x00#8, [], [], .init 12#16, by decide, rfl, rfl⟩

theorem witness_PlacedTableWordRunsNext : decodeTableWord 24 0x000C69 = some (.init 12#16) := by decide

theorem witness_ZeroByteInIdleIsNoOperation : ∃ (s : State) (c : List Byte) (rest : List Input),
    s.dec.op = none ∧ s.inputs = .read (0x00#8 :: c) :: rest :=
  ⟨quiet [.read [0x00#8, 0x00#8]], [0x00#8], [], rfl, rfl⟩

theorem witness_PayloadlessOpcodeEmitsAtOnce :
    (∃ (s : State), s.dec = { op := none, acc := [], rem := 0 } ∧ s.inputs = .read [0x63#8] :: []) ∧
    (∃ (s : State), s.dec = { op := none, acc := [], rem := 0 } ∧ s.inputs = .read [0x73#8] :: []) :=
  ⟨⟨quiet [.read [0x63#8]], rfl, rfl⟩, ⟨quiet [.read [0x73#8]], rfl, rfl⟩⟩

theorem witness_PayloadOpcodeBeginsCollecting : ∃ (s : State) (o : Byte) (n : Nat) (c : List Byte) (rest : List Input),
    (o, n) ∈ [(0x69#8, 2), (0x6C#8, 5), (0x40#8, 4), (0x74#8, 1), (0x53#8, 2)] ∧
    s.dec.op = none ∧ s.inputs = .read (o :: c) :: rest :=
  ⟨quiet [.read [0x6C#8]], 0x6C#8, 5, [], [], by decide, rfl, rfl⟩

theorem witness_UnknownOpcodeIsFramingError : ∃ (s : State) (b : Byte) (c : List Byte) (rest : List Input),
    s.dec.op = none ∧ b ≠ 0x00#8 ∧ known b = false ∧ s.inputs = .read (b :: c) :: rest :=
  ⟨quiet [.read [0x01#8]], 0x01#8, [], [], rfl, by decide, by decide, rfl⟩

theorem witness_PayloadByteIsCollected : ∃ (s : State) (o b : Byte) (c : List Byte) (rest : List Input),
    s.dec.op = some o ∧ 2 ≤ s.dec.rem ∧ s.inputs = .read (b :: c) :: rest :=
  ⟨collecting 0x53#8 [] 2 [.read [0xFF#8]], 0x53#8, 0xFF#8, [], [], rfl, by decide, rfl⟩

theorem witness_LastPayloadByteEmitsTheMessage : ∃ (s : State) (o b : Byte) (c : List Byte) (rest : List Input),
    s.dec.wf = true ∧ s.dec.op = some o ∧ s.dec.rem = 1 ∧ s.inputs = .read (b :: c) :: rest :=
  ⟨collecting 0x74#8 [] 1 [.read [0x80#8]], 0x74#8, 0x80#8, [], [], by decide, rfl, rfl, rfl⟩

theorem witness_FramingErrorOnlyOnUnknownOpcodeInIdle :
    (∃ s t : State, step s = .next t ∧ t.out.ferr = some 0xFF#8) ∧
    (∃ s t : State, step s = .next t ∧ t.out.ferr = none) :=
  ⟨⟨quiet [.read [0xFF#8]], _, rfl, rfl⟩, ⟨quiet [.read [0x00#8]], _, rfl, rfl⟩⟩

theorem witness_ByteStepIsFeed : ∃ (s : State) (b : Byte) (c : List Byte) (rest : List Input),
    s.dec.wf = true ∧ s.inputs = .read (b :: c) :: rest :=
  ⟨collecting 0x40#8 [0x01#8, 0x02#8, 0x03#8] 1 [.read [0x04#8]], 0x04#8, [], [], by decide, rfl⟩

theorem witness_RstDiscardsThePartialMessage : ∃ (s : State) (rest : List Input), s.inputs = .rst :: rest :=
  ⟨collecting 0x6C#8 [0x01#8] 4 [.rst], [], rfl⟩

/-- The three laws and the fourth clause, each at the boundary of its range. -/
theorem witness_ZeroRunLaws : ∃ d : Decoder, d.wf = true ∧ d.op = some 0x6C#8 ∧ d.rem ≤ 5 ∧ 4 < d.rem ∧
    Decoder.idle.wf = true ∧ Decoder.idle.op = none :=
  ⟨{ op := some 0x6C#8, acc := [], rem := 5 }, by decide, rfl, by decide, by decide, rfl, rfl⟩

theorem witness_EncodedStreamDecodes :
    ([[0x69#8, 0x0C#8], [], [0x00#8, 0x63#8]] : List (List Byte)).flatten = encodeMessages [.init 12#16, .clear] := by
  decide

theorem witness_DeliveredMessagesReachTheConsumerInOrder : ∃ (s : State) (ms : List WireMessage) (rest : List Input),
    s.dec = Decoder.idle ∧ LinkDelivers (encodeMessages ms) s.inputs rest :=
  ⟨quiet [.read [0x69#8], .read [0x0C#8, 0x00#8], .rst], [.init 12#16], [.rst], rfl,
    [[0x69#8], [0x0C#8, 0x00#8]], by decide, rfl⟩

theorem witness_MessageTakesEffectOnItsLastByteOnly : ∃ s t : State, s.dec.wf = true ∧ step s = .next t ∧
    t.consumer ≠ s.consumer :=
  ⟨quiet [.read [0x63#8]], _, by decide, rfl, by decide⟩

/-- Each value of `ROT`, a valid coordinate at its edge, and a square panel. -/
theorem witness_ExtentAndRotationOfEveryRot :
    (panel 3#16 4#16 1#2).rot = 1#2 ∧ 2 < (panel 3#16 4#16 1#2).W ∧ 3 < (panel 3#16 4#16 1#2).H ∧
    (panel 8#16 8#16 3#2).rows = (panel 8#16 8#16 3#2).columns ∧ (panel 8#16 8#16 3#2).rot = 3#2 ∧
    (panel 3#16 4#16 0#2).rot = 0#2 ∧ (panel 3#16 4#16 2#2).rot = 2#2 := by decide

theorem witness_SerpentineAndItsInverse : (panel 3#16 4#16 0#2).legal = true ∧
    3 < (panel 3#16 4#16 0#2).columns.toNat ∧ 2 < (panel 3#16 4#16 0#2).rows.toNat ∧
    11 < (panel 3#16 4#16 0#2).rows.toNat * (panel 3#16 4#16 0#2).columns.toNat := by decide

theorem witness_InverseRotation :
    3 < (panel 3#16 4#16 3#2).columns.toNat ∧ 2 < (panel 3#16 4#16 3#2).rows.toNat := by decide

/-- A valid coordinate at the far corner, and one just outside. -/
theorem witness_ToPhysicalReturnsTheAddressOrFaults :
    (∃ (s : State) (g : Geometry) (x y : U16) (rest : List Input), s.thread = .ready ∧ s.loaded = true ∧
      s.params.geometry = g ∧ g.legal = true ∧ s.inputs = .call (.toPhysical x y) :: rest ∧ x.toNat < g.W ∧ y.toNat < g.H) ∧
    (∃ (s : State) (g : Geometry) (x y : U16) (rest : List Input), s.thread = .ready ∧ s.loaded = true ∧
      s.params.geometry = g ∧ g.legal = true ∧ s.inputs = .call (.toPhysical x y) :: rest ∧ (g.W ≤ x.toNat ∨ g.H ≤ y.toNat)) :=
  ⟨⟨configured (panel 3#16 4#16 1#2) [.call (.toPhysical 2#16 3#16)], panel 3#16 4#16 1#2, 2#16, 3#16, [], rfl, rfl,
      rfl,
      by decide, rfl, by decide, by decide⟩,
    ⟨configured (panel 3#16 4#16 1#2) [.call (.toPhysical 3#16 0#16)], panel 3#16 4#16 1#2, 3#16, 0#16, [], rfl, rfl,
      rfl,
      by decide, rfl, by decide⟩⟩

/-- The last address, and `a = NUM`. -/
theorem witness_ToLogicalReturnsTheCoordinateOrFaults :
    (∃ (s : State) (g : Geometry) (a : U16) (rest : List Input), s.thread = .ready ∧ s.loaded = true ∧
      s.params.geometry = g ∧ g.legal = true ∧ s.inputs = .call (.toLogical a) :: rest ∧ a.toNat < g.rows.toNat * g.columns.toNat) ∧
    (∃ (s : State) (g : Geometry) (a : U16) (rest : List Input), s.thread = .ready ∧ s.loaded = true ∧
      s.params.geometry = g ∧ g.legal = true ∧ s.inputs = .call (.toLogical a) :: rest ∧ g.rows.toNat * g.columns.toNat ≤ a.toNat) :=
  ⟨⟨configured (panel 3#16 4#16 1#2) [.call (.toLogical 11#16)], panel 3#16 4#16 1#2, 11#16, [], rfl, rfl,
      rfl,
      by decide, rfl, by decide⟩,
    ⟨configured (panel 3#16 4#16 1#2) [.call (.toLogical 12#16)], panel 3#16 4#16 1#2, 12#16, [], rfl, rfl,
      rfl,
      by decide, rfl, by decide⟩⟩

theorem witness_MapperOperationsAreInverse : (panel 255#16 257#16 3#2).legal = true ∧
    (254#16).toNat < (panel 255#16 257#16 3#2).W ∧ (256#16).toNat < (panel 255#16 257#16 3#2).H ∧
    (65534#16).toNat < (panel 255#16 257#16 3#2).rows.toNat * (panel 255#16 257#16 3#2).columns.toNat ∧
    (panel 3#16 4#16 0#2).toPhysical 3#16 0#16 = .ok 11#16 := ⟨by decide, by decide, by decide, by decide, rfl⟩

theorem witness_OrientationAtRotZero : (panel 3#16 2#16 0#2).legal = true ∧ (panel 3#16 2#16 0#2).rot = 0#2 ∧
    2 ≤ (panel 3#16 2#16 0#2).columns.toNat := by decide

/-- Both operations, before the load and with an illegal configuration. -/
theorem witness_MapperNeedsALegalConfiguration :
    (∃ (s : State), s.thread = .ready ∧ s.inputs = .call (.toPhysical 0#16 0#16) :: [] ∧ s.loaded = false) ∧
    (∃ (s : State), s.thread = .ready ∧ s.inputs = .call (.toLogical 0#16) :: [] ∧
      s.loaded = true ∧ s.params.geometry.legal = false) :=
  ⟨⟨quiet [.call (.toPhysical 0#16 0#16)], rfl, rfl, rfl⟩,
    ⟨configured (panel 0#16 1#16 0#2) [.call (.toLogical 0#16)], rfl, rfl, rfl, by decide⟩⟩

/-- The three clauses: the largest legal panel, one above it, and a second load. -/
theorem witness_ConfigurationIsLoadedOnceAndLegal :
    (∃ (s : State) (g : Geometry), s.thread = .ready ∧ s.params.geometry = g ∧
      s.inputs = .call .loadConfiguration :: [] ∧ s.loaded = false ∧
      1 ≤ g.rows.toNat ∧ 1 ≤ g.columns.toNat ∧ g.rows.toNat * g.columns.toNat ≤ 65535) ∧
    (∃ (s : State) (g : Geometry), s.thread = .ready ∧ s.params.geometry = g ∧
      s.inputs = .call .loadConfiguration :: [] ∧ s.loaded = false ∧ 65535 < g.rows.toNat * g.columns.toNat) ∧
    (∃ (s : State) (g : Geometry), s.thread = .ready ∧ s.params.geometry = g ∧
      s.inputs = .call .loadConfiguration :: [] ∧ s.loaded = true) :=
  ⟨⟨withPanel (panel 255#16 257#16 0#2) [.call .loadConfiguration], panel 255#16 257#16 0#2, rfl, rfl, rfl, rfl,
      by decide, by decide, by decide⟩,
    ⟨withPanel (panel 256#16 256#16 0#2) [.call .loadConfiguration], panel 256#16 256#16 0#2, rfl, rfl, rfl, rfl,
      by decide⟩,
    ⟨configured (panel 3#16 4#16 0#2) [.call .loadConfiguration], panel 3#16 4#16 0#2, rfl, rfl, rfl, rfl⟩⟩

/-- A run of two steps, and a step from a loaded configuration. -/
theorem witness_ConfigurationIsImmutable :
    (∃ s t : State, run 2 s = .next t ∧ s.params.geometry = panel 3#16 4#16 0#2) ∧
    (∃ s t : State, step s = .next t ∧ s.loaded = true) :=
  ⟨⟨withPanel (panel 3#16 4#16 0#2) [.call .loadConfiguration, .hostStart], _, rfl, rfl⟩,
    ⟨configured (panel 3#16 4#16 0#2) [.rst], _, rfl, rfl⟩⟩

theorem configured_panel (ins : List Input) : (configured (panel 3#16 4#16 0#2) ins).configured := ⟨rfl, panel_legal⟩

theorem configured_online (ins : List Input) : (online ins).configured := ⟨rfl, panel_legal⟩

theorem witness_OpenAtBoot :
    (∃ s : State, s.thread = .ready ∧ s.link = .closed ∧ s.configured ∧
      s.inputs = .call .openLink :: .answer .openOk :: []) ∧
    (∃ s : State, s.thread = .ready ∧ s.link = .closed ∧ s.configured ∧
      s.inputs = .call .openLink :: .answer .openFail :: []) ∧
    (∃ s : State, s.thread = .ready ∧ s.link ≠ .closed ∧ s.inputs = .call .openLink :: []) ∧
    (∃ s : State, s.thread = .ready ∧ s.link = .closed ∧ s.loaded = false ∧ s.inputs = .call .openLink :: []) ∧
    (∃ s : State, s.thread = .ready ∧ s.link = .closed ∧ s.loaded = true ∧ s.params.geometry.legal = false ∧
      s.inputs = .call .openLink :: []) :=
  ⟨⟨_, rfl, rfl, configured_panel [.call .openLink, .answer .openOk], rfl⟩,
    ⟨_, rfl, rfl, configured_panel [.call .openLink, .answer .openFail], rfl⟩,
    ⟨online [.call .openLink], rfl, by decide, rfl⟩, ⟨quiet [.call .openLink], rfl, rfl, rfl, rfl⟩,
    ⟨configured (panel 0#16 1#16 0#2) [.call .openLink], rfl, rfl, rfl, by decide, rfl⟩⟩

theorem witness_SendNeedsAnOpenLink :
    (∃ s : State, s.thread = .ready ∧ s.inputs = .call (.send .clear) :: [] ∧ s.link ≠ .opened) ∧
    (∃ s : State, s.thread = .ready ∧ s.inputs = .call (.send .clear) :: [] ∧ s.link = .opened ∧ s.loaded = false) ∧
    (∃ s : State, s.thread = .ready ∧ s.inputs = .call (.send .clear) :: [] ∧ s.link = .opened ∧ s.loaded = true ∧
      s.params.geometry.legal = false) ∧
    (∃ s : State, s.thread = .ready ∧ s.inputs = .call (.send .clear) :: [] ∧ s.link = .opened ∧ s.configured) :=
  ⟨⟨quiet [.call (.send .clear)], rfl, rfl, by decide⟩,
    ⟨{ quiet [.call (.send .clear)] with link := .opened }, rfl, rfl, rfl, rfl⟩,
    ⟨{ configured (panel 0#16 1#16 0#2) [.call (.send .clear)] with link := .opened }, rfl, rfl, rfl, rfl, by decide⟩,
    ⟨_, rfl, rfl, rfl, configured_online [.call (.send .clear)]⟩⟩

theorem witness_SendOnTheNormalPath :
    (∃ s : State, s.thread = .ready ∧ s.link = .opened ∧ s.configured ∧
      s.inputs = .call (.send .showPixels) :: .answer .writeOk :: []) ∧
    (∃ s : State, s.thread = .ready ∧ s.link = .opened ∧ s.configured ∧ 1 ≤ (encodeMessage .showPixels).length ∧
      s.inputs = .call (.send .showPixels) :: .answer (.writeTimeout 1) :: []) ∧
    (∃ s : State, s.thread = .ready ∧ s.link = .opened ∧ s.configured ∧
      s.inputs = .call (.send .showPixels) :: .call (.send .clear) :: []) :=
  ⟨⟨_, rfl, rfl, configured_online [.call (.send .showPixels), .answer .writeOk], rfl⟩,
    ⟨_, rfl, rfl, configured_online [.call (.send .showPixels), .answer (.writeTimeout 1)], by decide, rfl⟩,
    ⟨_, rfl, rfl, configured_online [.call (.send .showPixels), .call (.send .clear)], rfl⟩⟩

theorem witness_HostOperationsDoNotOverlap :
    (∃ s : State, s.thread ≠ .ready ∧ s.inputs = .call .openLink :: []) ∧
    (∃ s : State, s.thread = .ready ∧ s.inputs = .call .openLink :: []) :=
  ⟨⟨{ online [.call .openLink] with thread := .writing [0x73#8] }, by decide, rfl⟩, ⟨quiet [.call .openLink], rfl, rfl⟩⟩

/-- A timeout that delivered the whole write, and both answers of the reopen. -/
theorem witness_RecoveryClosesAndReopens :
    (∃ s : State, 1 ≤ [0x73#8].length ∧ s.thread = .writing [0x73#8] ∧ s.inputs = .answer (.writeTimeout 1) :: []) ∧
    (∃ s : State, s.thread = .reopening [0x73#8] ∧ s.inputs = .answer .openOk :: []) ∧
    (∃ s : State, s.thread = .reopening [0x73#8] ∧ s.inputs = .answer .openFail :: []) :=
  ⟨⟨{ online [.answer (.writeTimeout 1)] with thread := .writing [0x73#8] }, by decide, rfl, rfl⟩,
    ⟨{ quiet [.answer .openOk] with thread := .reopening [0x73#8] }, rfl, rfl⟩,
    ⟨{ quiet [.answer .openFail] with thread := .reopening [0x73#8] }, rfl, rfl⟩⟩

/-- The reopening, and a timeout of the run at its greatest `k`. -/
theorem witness_RecoveryWritesTheResyncRun :
    (∃ s : State, s.thread = .reopening [0x73#8] ∧ s.inputs = .answer .openOk :: []) ∧
    (∃ s : State, s.thread = .resyncing [0x73#8] ∧ 5 ≤ s.params.resyncLen ∧ s.inputs = .answer (.writeTimeout 5) :: []) :=
  ⟨⟨{ quiet [.answer .openOk] with thread := .reopening [0x73#8] }, rfl, rfl⟩,
    ⟨{ online [.answer (.writeTimeout 5)] with thread := .resyncing [0x73#8] }, rfl, by decide, rfl⟩⟩

/-- Both successes, and a timeout of the retransmission at its greatest `k`. -/
theorem witness_RetransmissionEndsTheSend :
    (∃ s : State, s.thread = .resyncing [0x73#8] ∧ s.inputs = .answer .writeOk :: []) ∧
    (∃ s : State, s.thread = .retrying [0x73#8] ∧ s.inputs = .answer .writeOk :: []) ∧
    (∃ s : State, s.thread = .retrying [0x73#8] ∧ 1 ≤ [0x73#8].length ∧ s.inputs = .answer (.writeTimeout 1) :: []) :=
  ⟨⟨{ online [.answer .writeOk] with thread := .resyncing [0x73#8] }, rfl, rfl⟩,
    ⟨{ online [.answer .writeOk] with thread := .retrying [0x73#8] }, rfl, rfl⟩,
    ⟨{ online [.answer (.writeTimeout 1)] with thread := .retrying [0x73#8] }, rfl, by decide, rfl⟩⟩

theorem inv_retrying (ins : List Input) :
    State.Inv { online ins with thread := .retrying (encodeMessage .showPixels) } :=
  ⟨rfl, fun _ => panel_legal, .inl rfl, Nat.le_refl 5, .inl rfl, rfl, _, rfl⟩

/-- Both outcomes of a `send`. -/
theorem witness_SendReturnsOkOrFatal :
    (∃ (s t : State) (a : Answer) (rest : List Input), s.Inv ∧ s.thread ≠ .ready ∧ s.thread ≠ .opening ∧
      s.inputs = .answer a :: rest ∧ step s = .next t ∧ t.thread = .ready ∧ t.ret = some .ok) ∧
    (∃ (s t : State) (a : Answer) (rest : List Input), s.Inv ∧ s.thread ≠ .ready ∧ s.thread ≠ .opening ∧
      s.inputs = .answer a :: rest ∧ step s = .next t ∧ t.thread = .ready ∧ t.ret = some .fatalLinkError) :=
  ⟨⟨{ online [.answer .writeOk] with thread := .retrying (encodeMessage .showPixels) }, _, .writeOk, [],
      inv_retrying _, by decide, by decide, rfl, rfl, rfl, rfl⟩,
    ⟨{ online [.answer (.writeTimeout 0)] with thread := .retrying (encodeMessage .showPixels) }, _, .writeTimeout 0, [],
      inv_retrying _, by decide, by decide, rfl, rfl, rfl, rfl⟩⟩

/-- A step of each of the three kinds of input. -/
theorem witness_SendWritesAtMostThreeTimes :
    (∃ s t : State, step s = .next t ∧ s.inputs = .call (.send .clear) :: []) ∧
    (∃ s t : State, step s = .next t ∧ s.inputs = .answer .writeOk :: []) ∧
    (∃ s t : State, step s = .next t ∧ s.inputs = .rst :: []) :=
  ⟨⟨online [.call (.send .clear)], _, rfl, rfl⟩,
    ⟨{ online [.answer .writeOk] with thread := .resyncing [0x63#8] }, _, rfl, rfl⟩, ⟨quiet [.rst], _, rfl, rfl⟩⟩

/-- P3: the Decoder mid-message, the run and the retransmission delivered, the run in two reads. -/
theorem witness_RecoveryDeliversTheMessage :
    ∃ (s : State) (m : WireMessage) (run again rest : List Input), s.dec.wf = true ∧ 5 ≤ s.params.resyncLen ∧
      s.link = .opened ∧ s.thread = .resyncing (encodeMessage m) ∧
      LinkDelivers (zeros s.params.resyncLen) run (.answer .writeOk :: again) ∧
      LinkDelivers (encodeMessage m) again (.answer .writeOk :: rest) ∧ s.inputs = run :=
  ⟨{ collecting 0x6C#8 [0x01#8] 4
      [.read (zeros 2), .read (zeros 3), .answer .writeOk, .read [0x73#8], .answer .writeOk] with
        link := .opened, thread := .resyncing (encodeMessage .showPixels) },
    .showPixels, [.read (zeros 2), .read (zeros 3), .answer .writeOk, .read [0x73#8], .answer .writeOk],
    [.read [0x73#8], .answer .writeOk], [], by decide, by decide, rfl, rfl,
    ⟨[zeros 2, zeros 3], by decide, rfl⟩, ⟨[[0x73#8]], by decide, rfl⟩, rfl⟩

theorem witness_RecoveredSendWritesMessageRunMessage : ∃ (s : State) (k : Nat), s.thread = .ready ∧ s.link = .opened ∧
    s.configured ∧ k ≤ (encodeMessage .showPixels).length ∧
    s.inputs = .call (.send .showPixels) :: (answers [.writeTimeout k, .openOk, .writeOk, .writeOk] ++ []) :=
  ⟨_, 1, rfl, rfl,
    configured_online (.call (.send .showPixels) :: answers [.writeTimeout 1, .openOk, .writeOk, .writeOk]), by decide, rfl⟩

theorem inv_failed (ins : List Input) : State.Inv { online ins with link := .failed } :=
  ⟨rfl, fun _ => panel_legal, .inl rfl, Nat.le_refl 5, .inl rfl, trivial⟩

theorem witness_FailedLinkStaysFailed :
    (∃ s t : State, s.Inv ∧ s.link = .failed ∧ step s = .next t) ∧
    (∃ s : State, s.Inv ∧ s.link = .failed ∧ s.inputs = .call (.send .clear) :: []) ∧
    (∃ s : State, s.Inv ∧ s.link = .failed ∧ s.inputs = .call .openLink :: []) :=
  ⟨⟨_, _, inv_failed [.rst], rfl, rfl⟩, ⟨_, inv_failed [.call (.send .clear)], rfl, rfl⟩,
    ⟨_, inv_failed [.call .openLink], rfl, rfl⟩⟩

theorem witness_HostStartLeavesTheDeviceAlone : ∃ (s : State) (rest : List Input), s.inputs = .hostStart :: rest :=
  ⟨collecting 0x6C#8 [0x01#8] 4 [.hostStart], [], rfl⟩

/-- A step that raises an event on each side. -/
theorem witness_AtMostOneEventAStep :
    (∃ s t : State, step s = .next t ∧ t.deviceLog ≠ s.deviceLog) ∧
    (∃ s t : State, step s = .next t ∧ t.hostLog ≠ s.hostLog) :=
  ⟨⟨quiet [.read [0x41#8]], _, rfl, by decide⟩,
    ⟨{ quiet [.answer .openFail] with thread := .opening }, _, rfl, by decide⟩⟩

/-- A step on each kind of input. -/
theorem witness_AgentsShareNoState :
    (∃ s t : State, s.inputs = .read [0x73#8] :: [] ∧ step s = .next t) ∧
    (∃ s t : State, s.inputs = .rst :: [] ∧ step s = .next t) ∧
    (∃ s t : State, s.inputs = .call .openLink :: [] ∧ step s = .next t) ∧
    (∃ s t : State, s.inputs = .answer .openOk :: [] ∧ step s = .next t) ∧
    (∃ s t : State, s.inputs = .hostStart :: [] ∧ step s = .next t) :=
  ⟨⟨quiet [.read [0x73#8]], _, rfl, rfl⟩, ⟨quiet [.rst], _, rfl, rfl⟩, ⟨configured (panel 3#16 4#16 0#2) [.call .openLink], _, rfl, rfl⟩,
    ⟨{ quiet [.answer .openOk] with thread := .opening }, _, rfl, rfl⟩, ⟨quiet [.hostStart], _, rfl, rfl⟩⟩

end Sys2Proof.Tests
end

/-! Proofs of the statements about the block's scope (spec/00_scope.md): the invariant at reset, the frame of the
instructions, the host's single thread, and the separation of the two agents. -/

namespace Sys2Proof.Machine

/-! ### The host's side of the state, and what a device step leaves of it -/

/-- The fields that only the host agent writes (R3, R26, R32): what a device input must leave alone, and what a host
input must compute without reading the Decoder. -/
structure HostSide where
  link : Link
  thread : HostThread
  loaded : Bool
  hostLog : List Event
  written : List (List Byte)
  ret : Option Return

/-- The host's side of a state. -/
def State.hostSide (s : State) : HostSide :=
  { link := s.link, thread := s.thread, loaded := s.loaded, hostLog := s.hostLog, written := s.written, ret := s.ret }

theorem hostSide_eq_iff {s t : State} : t.hostSide = s.hostSide ↔
    t.link = s.link ∧ t.thread = s.thread ∧ t.loaded = s.loaded ∧ t.hostLog = s.hostLog ∧
    t.written = s.written ∧ t.ret = s.ret := by
  simp only [State.hostSide, HostSide.mk.injEq]

@[simp] theorem setDecoder_hostSide (s : State) (d : Decoder) : (s.setDecoder d).hostSide = s.hostSide := rfl

@[simp] theorem emitMessage_hostSide (s : State) (m : WireMessage) : (s.emitMessage m).hostSide = s.hostSide := rfl

@[simp] theorem assertRst_hostSide (s : State) : s.assertRst.hostSide = s.hostSide := rfl

@[simp] theorem raiseEvent_framingError_hostSide (s : State) (b : Byte) :
    (s.raiseEvent (.framingError b)).hostSide = s.hostSide := rfl

/-- A Decoder step is a step of the device agent alone. -/
theorem deviceByte_hostSide {b : Byte} {s t : State} (h : deviceByte b s = .next t) : t.hostSide = s.hostSide := by
  rcases deviceByte_cases h with ⟨-, rfl⟩ | ⟨m, -, rfl⟩ | ⟨d, -, rfl⟩ | ⟨e, -, rfl⟩
  · rfl
  · exact emitMessage_hostSide s m
  · exact setDecoder_hostSide s d
  · rw [raiseEvent_framingError_hostSide, setDecoder_hostSide]

theorem deviceRead_hostSide {chunk : List Byte} {rest : List Input} {s t : State}
    (h : deviceRead chunk rest s = .next t) : t.hostSide = (s.takeInput rest).hostSide := by
  cases chunk with
  | nil => cases h; rfl
  | cons b c => exact deviceByte_hostSide (s := s.takeInput (readRest c rest)) h

/-! ### What a host step leaves of the device's side -/

theorem hostCall_deviceFrame {c : HostCall} {s t : State} (h : hostCall c s = .next t) :
    t.consumer = s.consumer ∧ t.deviceLog = s.deviceLog ∧ t.out = s.out ∧ t.inputs = s.inputs ∧ t.dec = s.dec := by
  obtain ⟨-, -, hc⟩ := hostCall_cases h
  rcases hc with ⟨-, -, rfl⟩ | ⟨-, -, -, rfl⟩ | ⟨m, -, -, -, rfl⟩ |
    ⟨x, y, -, -, ⟨a, -, rfl⟩ | ⟨v, -, rfl⟩⟩ | ⟨a, -, -, ⟨x, y, -, rfl⟩ | ⟨v, -, rfl⟩⟩ <;>
  simp [mapperFault]

/-- An opening either leaves the Decoder or resets it, and resets it only where the device sees the opening (R10). -/
theorem linkOpened_dec_cases (s : State) : s.linkOpened.dec = s.dec ∨
    (s.linkOpened.dec = Decoder.idle ∧ s.params.deviceSeesReopen = true) := by
  cases hr : s.params.deviceSeesReopen <;> simp [hr]

theorem hostAnswer_deviceFrame {a : Answer} {s t : State} (h : hostAnswer a s = .next t) :
    t.consumer = s.consumer ∧ t.deviceLog = s.deviceLog ∧ t.out = s.out ∧ t.inputs = s.inputs ∧
    (t.dec = s.dec ∨ (t.dec = Decoder.idle ∧ s.params.deviceSeesReopen = true ∧ a = .openOk)) := by
  have hopen := linkOpened_dec_cases s
  rcases hostAnswer_cases h with ⟨-, rfl, rfl⟩ | ⟨bs, -, -, rfl⟩ | ⟨bs, k, -, -, -, rfl⟩ | ⟨bs, -, rfl, rfl⟩ |
    ⟨bs, -, -, rfl⟩ | ⟨bs, -, -, rfl⟩ | ⟨rfl, -⟩
  · exact ⟨rfl, rfl, rfl, rfl, by simpa only [finish_dec, and_true] using hopen⟩
  · exact ⟨rfl, rfl, rfl, rfl, .inl rfl⟩
  · exact ⟨rfl, rfl, rfl, rfl, .inl rfl⟩
  · exact ⟨rfl, rfl, rfl, rfl, by simpa only [issueWrite_dec, and_true] using hopen⟩
  · exact ⟨rfl, rfl, rfl, rfl, .inl rfl⟩
  · exact ⟨rfl, rfl, rfl, rfl, .inl rfl⟩
  · exact ⟨rfl, rfl, rfl, rfl, .inl rfl⟩

/-! ### A host step does not read the Decoder

Each operation commutes with `setDecoder`: started with another Decoder it takes the same step, and the two results
differ in the Decoder at most. -/

theorem withConfiguration_setDecoder {s t : State} {f f' : Geometry → Host.Outcome State Fault Refusal} (d : Decoder)
    (hf : ∀ g, f g = .next t → f' g = .next (t.setDecoder d)) (h : withConfiguration s f = .next t) :
    withConfiguration (s.setDecoder d) f' = .next (t.setDecoder d) := by
  obtain ⟨hd, hl, h⟩ := withConfiguration_next h
  rw [withConfiguration_legal (s := s.setDecoder d) f' hd hl]
  exact hf _ h

theorem loadConfiguration_setDecoder {s t : State} (d : Decoder) (h : loadConfiguration s = .next t) :
    loadConfiguration (s.setDecoder d) = .next (t.setDecoder d) := by
  obtain ⟨hn, hl, rfl⟩ := loadConfiguration_next h
  simp only [loadConfiguration, setDecoder_loaded, setDecoder_params, hn, hl]
  rfl

theorem hostCall_setDecoder {c : HostCall} {s t : State} (d : Decoder) (h : hostCall c s = .next t) :
    hostCall c (s.setDecoder d) = .next (t.setDecoder d) := by
  obtain ⟨ht, -, -⟩ := hostCall_cases h
  simp only [hostCall, setDecoder_thread, ht] at h ⊢
  cases c with
  | loadConfiguration => exact loadConfiguration_setDecoder d h
  | openLink =>
    simp only [callOpen, setDecoder_link] at h ⊢
    cases hl : s.link <;> simp only [hl, reduceCtorEq] at h ⊢
    refine withConfiguration_setDecoder d (fun g hg => ?_) h
    cases hg; rfl
  | send m =>
    simp only [callSend, setDecoder_link] at h ⊢
    cases hl : s.link <;> simp only [hl, reduceCtorEq] at h ⊢
    refine withConfiguration_setDecoder d (fun g hg => ?_) h
    cases hg; rfl
  | toPhysical x y =>
    refine withConfiguration_setDecoder d (fun g hg => ?_) h
    cases hp : g.toPhysical x y <;> simp only [hp] at hg ⊢ <;> cases hg <;> rfl
  | toLogical a =>
    refine withConfiguration_setDecoder d (fun g hg => ?_) h
    cases hp : g.toLogical a <;> simp only [hp] at hg ⊢ <;> cases hg <;> rfl

theorem timeoutStep_setDecoder {bs : List Byte} {k : Nat} {t u : State} (d : Decoder)
    (h : timeoutStep bs k t = .next u) : timeoutStep bs k (t.setDecoder d) = .next (u.setDecoder d) := by
  obtain ⟨hk, rfl⟩ := timeoutStep_next h
  exact if_pos hk

/-- The Decoder of the result is left open: an opening that the device sees resets it, whatever it was. -/
theorem hostAnswer_setDecoder {a : Answer} {s t : State} (d : Decoder) (h : hostAnswer a s = .next t) :
    ∃ d', hostAnswer a (s.setDecoder d) = .next (t.setDecoder d') := by
  simp only [hostAnswer, setDecoder_thread] at h ⊢
  cases ht : s.thread <;> simp only [ht, reduceCtorEq] at h ⊢
  case opening | reopening bs => cases a <;> cases h <;> exact ⟨_, rfl⟩
  case writing bs | resyncing bs | retrying bs =>
    cases a with
    | writeTimeout k => exact ⟨d, timeoutStep_setDecoder d h⟩
    | _ => cases h <;> exact ⟨d, rfl⟩

/-! ### The step on an input of the one agent and of the other -/

theorem step_deviceInput_hostSide {s t : State} {i : Input} {rest : List Input} (hi : s.inputs = i :: rest)
    (h : step s = .next t) (hd : (∃ c, i = .read c) ∨ i = .rst) : t.hostSide = (s.takeInput rest).hostSide := by
  rcases hd with ⟨c, rfl⟩ | rfl
  · simp only [step, hi, runInput] at h
    exact deviceRead_hostSide h
  · rw [step_rst hi] at h; cases h
    exact assertRst_hostSide _

theorem step_hostInput_deviceFrame {s t : State} {i : Input} {rest : List Input} (hi : s.inputs = i :: rest)
    (h : step s = .next t) (hh : (∃ c, i = .call c) ∨ (∃ a, i = .answer a) ∨ i = .hostStart) :
    t.consumer = s.consumer ∧ t.deviceLog = s.deviceLog ∧ t.out = Outputs.none ∧ t.inputs = rest ∧
    (t.dec = s.dec ∨ (t.dec = Decoder.idle ∧ s.params.deviceSeesReopen = true ∧ i = .answer .openOk)) := by
  rcases hh with ⟨c, rfl⟩ | ⟨a, rfl⟩ | rfl
  · rw [step_call hi] at h
    obtain ⟨hcons, hlog, hout, hin, hdec⟩ := hostCall_deviceFrame h
    exact ⟨hcons, hlog, hout, hin, .inl hdec⟩
  · rw [step_answer hi] at h
    simpa using hostAnswer_deviceFrame h
  · rw [step_hostStart hi] at h; cases h
    exact ⟨rfl, rfl, rfl, rfl, .inl rfl⟩

theorem step_hostInput_setDecoder {s t : State} {i : Input} {rest : List Input} (hi : s.inputs = i :: rest)
    (h : step s = .next t) (hh : (∃ c, i = .call c) ∨ (∃ a, i = .answer a) ∨ i = .hostStart) (d : Decoder) :
    ∃ d', step (s.setDecoder d) = .next (t.setDecoder d') := by
  have hi' : (s.setDecoder d).inputs = i :: rest := hi
  rcases hh with ⟨c, rfl⟩ | ⟨a, rfl⟩ | rfl
  · rw [step_call hi] at h; rw [step_call hi']
    exact ⟨d, hostCall_setDecoder d h⟩
  · rw [step_answer hi] at h; rw [step_answer hi']
    exact hostAnswer_setDecoder d h
  · rw [step_hostStart hi] at h; rw [step_hostStart hi']
    cases h; exact ⟨d, rfl⟩

/-- Settles O60: a device input keeps `hostSide`; a host input keeps the device's fields, and commutes with
`setDecoder`. -/
theorem agentsShareNoState : Obligations.AgentsShareNoState := by
  unfold Obligations.AgentsShareNoState
  intro s t i rest hi h
  refine ⟨fun hd => ?_, fun hh => step_hostInput_deviceFrame hi h hh, fun hh d => ?_⟩
  · exact hostSide_eq_iff.mp (step_deviceInput_hostSide hi h hd)
  · obtain ⟨d', hstep⟩ := step_hostInput_setDecoder hi h hh d
    exact ⟨t.setDecoder d', hstep, hostSide_eq_iff.mp (setDecoder_hostSide t d')⟩

/-! ### The invariant at reset -/

/-- Settles O2, clause by clause; `RESYNC_LEN` is opaque, and its clause holds because it is a sum with `MAX_PAYLOAD`
(R8). -/
theorem invariantHoldsAtReset : Obligations.InvariantHoldsAtReset where
  decoder := wf_idle
  configuration hloaded := nomatch hloaded
  bootOrder := .inr ⟨rfl, rfl⟩
  resyncLen := Nat.le_add_right Config.maxPayload Config.resyncBeyondMinimum
  outputs := .inl rfl
  thread := trivial

/-! ### The frame of the instructions -/

/-- Settles O19: an instruction is the resync, or emits its one message (`exec_cases`). -/
theorem instructionsLeaveTheRestUnchanged : Obligations.InstructionsLeaveTheRestUnchanged := by
  unfold Obligations.InstructionsLeaveTheRestUnchanged
  intro i s t h
  rcases exec_cases i s with ⟨rfl, he⟩ | ⟨m, rfl, he⟩
  · rw [he] at h; cases h
    exact ⟨rfl, rfl, rfl, rfl, rfl, rfl, rfl, rfl, rfl, ⟨[], by simp⟩, fun _ => ⟨rfl, rfl⟩⟩
  · rw [he] at h; cases h
    have hm : m.toInstr ≠ .resync := by cases m <;> simp [WireMessage.toInstr]
    exact ⟨rfl, rfl, rfl, rfl, rfl, rfl, rfl, rfl, rfl, ⟨[m], rfl, Nat.le_refl 1⟩, fun hr => absurd hr hm⟩

/-! ### The host's single thread -/

theorem hostCall_busy {s : State} (c : HostCall) (h : s.thread ≠ .ready) :
    hostCall c s = .refused .hostThreadBusy := by
  unfold hostCall
  split
  · next hr => exact absurd hr h
  all_goals rfl

theorem withConfiguration_ne_busy {s : State} {f : Geometry → Host.Outcome State Fault Refusal}
    (hf : ∀ g, f g ≠ .refused .hostThreadBusy) : withConfiguration s f ≠ .refused .hostThreadBusy := by
  unfold withConfiguration
  split
  · split
    · exact hf _
    · simp
  · simp

theorem loadConfiguration_ne_busy (s : State) : loadConfiguration s ≠ .refused .hostThreadBusy := by
  unfold loadConfiguration
  split
  · simp
  · split <;> simp

theorem callOpen_ne_busy (s : State) : callOpen s ≠ .refused .hostThreadBusy := by
  unfold callOpen
  split
  · exact withConfiguration_ne_busy fun _ => by simp
  all_goals simp

theorem callSend_ne_busy (m : WireMessage) (s : State) : callSend m s ≠ .refused .hostThreadBusy := by
  unfold callSend
  split
  · exact withConfiguration_ne_busy fun _ => by simp
  all_goals simp

theorem callToPhysical_ne_busy (x y : U16) (s : State) : callToPhysical x y s ≠ .refused .hostThreadBusy :=
  withConfiguration_ne_busy fun _ => by split <;> simp

theorem callToLogical_ne_busy (a : U16) (s : State) : callToLogical a s ≠ .refused .hostThreadBusy :=
  withConfiguration_ne_busy fun _ => by split <;> simp

/-- A refusal of an operation that the thread was free to start has another reason than the thread. -/
theorem hostCall_ready_ne_busy {s : State} (c : HostCall) (h : s.thread = .ready) :
    hostCall c s ≠ .refused .hostThreadBusy := by
  simp only [hostCall, h]
  cases c with
  | loadConfiguration => exact loadConfiguration_ne_busy s
  | openLink => exact callOpen_ne_busy s
  | send m => exact callSend_ne_busy m s
  | toPhysical x y => exact callToPhysical_ne_busy x y s
  | toLogical a => exact callToLogical_ne_busy a s

/-- Settles O49: the thread is the only source of the refusal `hostThreadBusy`. -/
theorem hostOperationsDoNotOverlap : Obligations.HostOperationsDoNotOverlap := by
  unfold Obligations.HostOperationsDoNotOverlap
  intro s c rest hi
  rw [step_call hi]
  constructor
  · intro hbusy
    exact hostCall_busy (s := s.takeInput rest) c hbusy
  · intro hrefused hready
    exact hostCall_ready_ne_busy (s := s.takeInput rest) c hready hrefused

end Sys2Proof.Machine

/-! Proofs of the statements about the block's state (spec/10_state.md): its reset values, the Decoder's invariant, the
run's one configuration, the end state `Failed`, and the invariant of the whole state. -/

namespace Sys2Proof.Machine

/-! ### A step by the agent that takes it -/

/-- The part of a host's side that the invariant and the boot order speak of. -/
theorem hostFields_of_hostSide {s t : State} {rest : List Input} (h : t.hostSide = (s.takeInput rest).hostSide) :
    t.link = s.link ∧ t.thread = s.thread ∧ t.loaded = s.loaded := by
  obtain ⟨hlink, hthread, hloaded, -⟩ := hostSide_eq_iff.mp h
  exact ⟨hlink, hthread, hloaded⟩

/-- A step leaves the host's link, thread and load alone, or is the host's own: a call, an answer or a new start. -/
theorem step_cases_host {s t : State} (h : step s = .next t) :
    (t.link = s.link ∧ t.thread = s.thread ∧ t.loaded = s.loaded) ∨
    (∃ c rest, s.inputs = .call c :: rest ∧ hostCall c (s.takeInput rest) = .next t) ∨
    (∃ a rest, s.inputs = .answer a :: rest ∧ hostAnswer a (s.takeInput rest) = .next t) ∨
    (∃ rest, s.inputs = .hostStart :: rest ∧ t = (s.takeInput rest).restartHost) := by
  rcases step_cases h with ⟨-, rfl⟩ | ⟨rest, -, rfl⟩ | ⟨b, c, rest, -, hb⟩ | ⟨rest, -, rfl⟩ | hcall | hanswer | hstart
  · exact .inl ⟨rfl, rfl, rfl⟩
  · exact .inl ⟨rfl, rfl, rfl⟩
  · exact .inl (hostFields_of_hostSide (deviceByte_hostSide hb))
  · exact .inl ⟨rfl, rfl, rfl⟩
  · exact .inr (.inl hcall)
  · exact .inr (.inr (.inl hanswer))
  · exact .inr (.inr (.inr hstart))

/-! ### The parameters of the run (R25) -/

theorem deviceByte_params {b : Byte} {s t : State} (h : deviceByte b s = .next t) : t.params = s.params := by
  rcases deviceByte_cases h with ⟨-, rfl⟩ | ⟨m, -, rfl⟩ | ⟨d, -, rfl⟩ | ⟨e, -, rfl⟩
  · rfl
  · exact emitMessage_params s m
  · exact setDecoder_params s d
  · rw [raiseEvent_params, setDecoder_params]

theorem hostCall_params {c : HostCall} {s t : State} (h : hostCall c s = .next t) : t.params = s.params := by
  obtain ⟨-, -, hc⟩ := hostCall_cases h
  rcases hc with ⟨-, -, rfl⟩ | ⟨-, -, -, rfl⟩ | ⟨m, -, -, -, rfl⟩ |
    ⟨x, y, -, -, ⟨a, -, rfl⟩ | ⟨v, -, rfl⟩⟩ | ⟨a, -, -, ⟨x, y, -, rfl⟩ | ⟨v, -, rfl⟩⟩ <;> rfl

theorem hostAnswer_params {a : Answer} {s t : State} (h : hostAnswer a s = .next t) : t.params = s.params := by
  rcases hostAnswer_cases h with ⟨-, -, rfl⟩ | ⟨bs, -, -, rfl⟩ | ⟨bs, k, -, -, -, rfl⟩ | ⟨bs, -, -, rfl⟩ |
    ⟨bs, -, -, rfl⟩ | ⟨bs, -, -, rfl⟩ | ⟨rfl, -⟩ <;> rfl

theorem step_params {s t : State} (h : step s = .next t) : t.params = s.params := by
  rcases step_cases h with ⟨-, rfl⟩ | ⟨rest, -, rfl⟩ | ⟨b, c, rest, -, hb⟩ | ⟨rest, -, rfl⟩ | ⟨c, rest, -, hc⟩ |
    ⟨a, rest, -, ha⟩ | ⟨rest, -, rfl⟩
  · rfl
  · rfl
  · exact (deviceByte_params hb).trans (takeInput_params s _)
  · rfl
  · exact (hostCall_params hc).trans (takeInput_params s rest)
  · exact (hostAnswer_params ha).trans (takeInput_params s rest)
  · rfl

/-- A run of `k + 1` steps begins with a step. -/
theorem run_succ_cases {k : Nat} {s t : State} (h : run (k + 1) s = .next t) :
    ∃ u, step s = .next u ∧ run k u = .next t := by
  cases hs : step s with
  | next u => exact ⟨u, rfl, run_succ hs ▸ h⟩
  | fault r =>
    have hcore : Sys2Proof.core.step s = .fault r := hs
    simp [run, Host.Core.run, hcore] at h
  | refused r =>
    have hcore : Sys2Proof.core.step s = .refused r := hs
    simp [run, Host.Core.run, hcore] at h

theorem run_params {k : Nat} {s t : State} (h : run k s = .next t) : t.params = s.params := by
  induction k generalizing s with
  | zero => cases h; rfl
  | succ k ih =>
    obtain ⟨u, hstep, hrun⟩ := run_succ_cases h
    rw [ih hrun, step_params hstep]

/-! ### The Decoder's invariant (R21) and the step's outputs (R15) -/

/-- A collecting state with a byte expected, whose counts add up to the payload's length, meets R21. -/
theorem wf_collecting {k : MessageKind} {acc : List Byte} {r : Nat} (hr : 1 ≤ r)
    (hl : acc.length + r = k.payloadLen) : Decoder.wf { op := some k.opcode, acc := acc, rem := r } = true := by
  simp [Decoder.wf, hr, hl]

/-- A byte that is collected keeps R21 (R88, R90). -/
theorem wf_of_action_collect {d d' : Decoder} {b : Byte} (hd : d.wf = true) (h : d.action b = .collect d') :
    d'.wf = true := by
  cases ho : d.op with
  | none =>
    rw [action_idle d b ho] at h
    rcases opcodeAction_cases b with ⟨-, ha⟩ | ⟨m, -, -, ha⟩ | ⟨k, rfl, hk, ha⟩ | ⟨-, -, ha⟩ <;> rw [ha] at h <;> cases h
    exact wf_collecting hk (by simp)
  | some o =>
    obtain ⟨k, rfl, hr, hl⟩ := collecting_of_wf hd ho
    rw [action_collecting d _ b ho] at h
    rcases payloadAction_cases k d.acc d.rem b hr hl with ⟨h2, ha⟩ | ⟨-, m, -, -, ha⟩ <;> rw [ha] at h <;> cases h
    exact wf_collecting (by omega) (by simp only [List.length_append, List.length_singleton]; omega)

theorem deviceByte_wf {b : Byte} {s t : State} (hs : s.dec.wf = true) (h : deviceByte b s = .next t) :
    t.dec.wf = true := by
  rcases deviceByte_cases h with ⟨-, rfl⟩ | ⟨m, -, rfl⟩ | ⟨d, hd, rfl⟩ | ⟨e, -, rfl⟩
  · exact hs
  · exact wf_idle
  · exact wf_of_action_collect hs hd
  · exact wf_idle

/-- Every step keeps R21: a Decoder step by `deviceByte_wf`; any other leaves the Decoder or makes it Idle. -/
theorem step_wf {s t : State} (hs : s.dec.wf = true) (h : step s = .next t) : t.dec.wf = true := by
  rcases step_cases h with ⟨-, rfl⟩ | ⟨rest, -, rfl⟩ | ⟨b, c, rest, -, hb⟩ | ⟨rest, -, rfl⟩ | ⟨c, rest, -, hc⟩ |
    ⟨a, rest, -, ha⟩ | ⟨rest, -, rfl⟩
  · exact hs
  · exact hs
  · exact deviceByte_wf (s := s.takeInput (readRest c rest)) hs hb
  · exact wf_idle
  · obtain ⟨-, -, -, -, hdec⟩ := hostCall_deviceFrame hc
    rwa [hdec]
  · obtain ⟨-, -, -, -, hdec | ⟨hdec, -⟩⟩ := hostAnswer_deviceFrame ha
    · rwa [hdec]
    · rw [hdec]; exact wf_idle
  · exact hs

/-- The opcodes with a payload (R47), as bytes. -/
theorem opcode_mem_of_payload {k : MessageKind} (h : 1 ≤ k.payloadLen) :
    k.opcode ∈ [0x69#8, 0x6C#8, 0x40#8, 0x74#8, 0x53#8] := by
  revert h; cases k <;> decide

theorem deviceByte_outputs {b : Byte} {s t : State} (hs : s.out = Outputs.none) (h : deviceByte b s = .next t) :
    t.out.msg = none ∨ t.out.ferr = none := by
  rcases deviceByte_cases h with ⟨-, rfl⟩ | ⟨m, -, rfl⟩ | ⟨d, -, rfl⟩ | ⟨e, -, rfl⟩
  · exact .inl rfl
  · exact .inr rfl
  · rw [setDecoder_out, hs]; exact .inl rfl
  · exact .inl rfl

/-- No step has both outputs (R15): only a Decoder step has any, and the others begin and end with none. -/
theorem step_outputs {s t : State} (h : step s = .next t) : t.out.msg = none ∨ t.out.ferr = none := by
  rcases step_cases h with ⟨-, rfl⟩ | ⟨rest, -, rfl⟩ | ⟨b, c, rest, -, hb⟩ | ⟨rest, -, rfl⟩ | ⟨c, rest, -, hc⟩ |
    ⟨a, rest, -, ha⟩ | ⟨rest, -, rfl⟩
  · exact .inl rfl
  · exact .inl rfl
  · exact deviceByte_outputs rfl hb
  · exact .inl rfl
  · obtain ⟨-, -, hout, -⟩ := hostCall_deviceFrame hc
    rw [hout]; exact .inl rfl
  · obtain ⟨-, -, hout, -⟩ := hostAnswer_deviceFrame ha
    rw [hout]; exact .inl rfl
  · exact .inl rfl

/-! ### The host's link, thread and load -/

/-- A call issues its primitive and waits: `link` changes only at the answer (R97, R99). -/
theorem hostCall_link {c : HostCall} {s t : State} (h : hostCall c s = .next t) : t.link = s.link := by
  obtain ⟨-, -, hc⟩ := hostCall_cases h
  rcases hc with ⟨-, -, rfl⟩ | ⟨-, -, -, rfl⟩ | ⟨m, -, -, -, rfl⟩ |
    ⟨x, y, -, -, ⟨a, -, rfl⟩ | ⟨v, -, rfl⟩⟩ | ⟨a, -, -, ⟨x, y, -, rfl⟩ | ⟨v, -, rfl⟩⟩ <;> rfl

/-- After any call that has a step a legal configuration is loaded: the call was the load, or needed it (R128). -/
theorem hostCall_configured {c : HostCall} {s t : State} (h : hostCall c s = .next t) : t.configured := by
  obtain ⟨-, hlegal, hc⟩ := hostCall_cases h
  rcases hc with ⟨-, -, rfl⟩ | ⟨-, hl, -, rfl⟩ | ⟨m, -, hl, -, rfl⟩ |
    ⟨x, y, -, hl, ⟨a, -, rfl⟩ | ⟨v, -, rfl⟩⟩ | ⟨a, -, hl, ⟨x, y, -, rfl⟩ | ⟨v, -, rfl⟩⟩
  · exact ⟨rfl, hlegal⟩
  all_goals exact ⟨hl, hlegal⟩

/-- A call ends at once, or waits with the link as its primitive needs it (R97, R99). -/
theorem hostCall_threadAgrees {c : HostCall} {s t : State} (h : hostCall c s = .next t) :
    threadAgrees t.link t.thread := by
  obtain ⟨hready, -, hc⟩ := hostCall_cases h
  rcases hc with ⟨-, -, rfl⟩ | ⟨-, -, hclosed, rfl⟩ | ⟨m, -, -, hopened, rfl⟩ |
    ⟨x, y, -, -, ⟨a, -, rfl⟩ | ⟨v, -, rfl⟩⟩ | ⟨a, -, -, ⟨x, y, -, rfl⟩ | ⟨v, -, rfl⟩⟩
  case inr.inl => exact hclosed
  case inr.inr.inl => exact ⟨hopened, m, rfl⟩
  all_goals exact trivial

/-- Only an operation in progress is answered (R16). -/
theorem hostAnswer_thread_ne_ready {a : Answer} {s t : State} (h : hostAnswer a s = .next t) : s.thread ≠ .ready := by
  intro hready
  simp [hostAnswer, hready] at h

theorem hostAnswer_loaded {a : Answer} {s t : State} (h : hostAnswer a s = .next t) : t.loaded = s.loaded := by
  rcases hostAnswer_cases h with ⟨-, -, rfl⟩ | ⟨bs, -, -, rfl⟩ | ⟨bs, k, -, -, -, rfl⟩ | ⟨bs, -, -, rfl⟩ |
    ⟨bs, -, -, rfl⟩ | ⟨bs, -, -, rfl⟩ | ⟨rfl, -⟩ <;> rfl

/-- An answer moves the thread and the link together, and the bytes of the `send` go with it (R97 to R102). -/
theorem hostAnswer_threadAgrees {a : Answer} {s t : State} (hs : threadAgrees s.link s.thread)
    (h : hostAnswer a s = .next t) : threadAgrees t.link t.thread := by
  rcases hostAnswer_cases h with ⟨-, -, rfl⟩ | ⟨bs, -, -, rfl⟩ | ⟨bs, k, hwait, -, -, rfl⟩ | ⟨bs, hwait, -, rfl⟩ |
    ⟨bs, hwait, -, rfl⟩ | ⟨bs, -, -, rfl⟩ | ⟨rfl, -⟩
  case inr.inr.inl | inr.inr.inr.inl =>
    rw [hwait] at hs
    obtain ⟨-, hmessage⟩ := hs
    exact ⟨rfl, hmessage⟩
  case inr.inr.inr.inr.inl =>
    rw [hwait] at hs
    exact hs
  all_goals exact trivial

/-- A failed link has no operation in progress (R97, R100 to R102: each fatal path ends its operation). -/
theorem thread_ready_of_failed {s : State} (hs : s.Inv) (hlink : s.link = .failed) : s.thread = .ready := by
  have hagrees := hs.thread
  rw [hlink] at hagrees
  cases hthread : s.thread <;> simp [threadAgrees, hthread] at hagrees ⊢

/-! ### The invariant of the whole state -/

/-- Within the invariant, with an operation in progress, a legal configuration is loaded (R128). -/
theorem State.Inv.configured_of_busy {s : State} (hs : s.Inv) (hbusy : s.thread ≠ .ready) : s.configured := by
  rcases hs.bootOrder with hloaded | ⟨-, hready⟩
  · exact ⟨hloaded, hs.configuration hloaded⟩
  · exact absurd hready hbusy

/-- What a step owes the invariant once `step_params`, `step_wf` and `step_outputs` are used: the clauses on the host. -/
theorem inv_of_step {s t : State} (hs : s.Inv) (h : step s = .next t)
    (hconfiguration : t.loaded = true → s.params.geometry.legal = true)
    (hboot : t.loaded = true ∨ (t.link = .closed ∧ t.thread = .ready))
    (hthread : threadAgrees t.link t.thread) : t.Inv where
  decoder := step_wf hs.decoder h
  configuration := by rwa [step_params h]
  bootOrder := hboot
  resyncLen := by rw [step_params h]; exact hs.resyncLen
  outputs := step_outputs h
  thread := hthread

/-- Settles O3: by the agent that takes the step. A device step leaves the host's clauses as they are, a call or an
answer ends with a legal configuration loaded and the thread in step with the link, and a new start of the host is
`Closed`, free and unloaded. -/
theorem everyStepKeepsTheInvariant : Obligations.EveryStepKeepsTheInvariant := by
  unfold Obligations.EveryStepKeepsTheInvariant
  intro s t hs h
  rcases step_cases_host h with ⟨hlink, hthread, hloaded⟩ | ⟨c, rest, -, hc⟩ | ⟨a, rest, -, ha⟩ | ⟨rest, -, rfl⟩
  · refine inv_of_step hs h ?_ ?_ ?_
    · rw [hloaded]; exact hs.configuration
    · rw [hlink, hthread, hloaded]; exact hs.bootOrder
    · rw [hlink, hthread]; exact hs.thread
  · obtain ⟨hloaded, hlegal⟩ := hostCall_configured hc
    rw [step_params h] at hlegal
    exact inv_of_step hs h (fun _ => hlegal) (.inl hloaded) (hostCall_threadAgrees hc)
  · obtain ⟨hloaded, hlegal⟩ := hs.configured_of_busy (hostAnswer_thread_ne_ready (s := s.takeInput rest) ha)
    exact inv_of_step hs h (fun _ => hlegal) (.inl ((hostAnswer_loaded ha).trans hloaded))
      (hostAnswer_threadAgrees (s := s.takeInput rest) hs.thread ha)
  · exact inv_of_step hs h (fun hloaded => nomatch hloaded) (.inr ⟨rfl, rfl⟩) trivial

/-! ### The Decoder's invariant, the configuration, `Failed`, and reset -/

/-- Settles O4: `step_wf`, with R21 read off for a Decoder that is Idle (`eq_idle_of_wf`) and one that collects
(`collecting_of_wf`). -/
theorem decoderInvariantAfterEveryStep : Obligations.DecoderInvariantAfterEveryStep := by
  unfold Obligations.DecoderInvariantAfterEveryStep
  refine ⟨wf_idle, fun s t hs h => ?_⟩
  have ht : t.dec.wf = true := step_wf hs h
  refine ⟨ht, fun hidle => ?_, fun o ho => ?_⟩
  · rw [eq_idle_of_wf ht hidle]
    exact ⟨idle_acc, idle_rem⟩
  · obtain ⟨k, rfl, hrem, hlen⟩ := collecting_of_wf ht ho
    exact ⟨opcode_mem_of_payload (by omega), hrem, by rw [plen_opcode, hlen]⟩

/-- Settles O45: the parameters by induction on the run (`run_params`), the load by the agent that takes the step. -/
theorem configurationIsImmutable : Obligations.ConfigurationIsImmutable := by
  unfold Obligations.ConfigurationIsImmutable
  refine ⟨fun k s t => run_params, fun s t h hloaded => ?_⟩
  rcases step_cases_host h with ⟨-, -, hkept⟩ | ⟨c, rest, -, hc⟩ | ⟨a, rest, -, ha⟩ | ⟨rest, hi, -⟩
  · exact .inl (hkept.trans hloaded)
  · obtain ⟨hset, -⟩ := hostCall_configured hc
    exact .inl hset
  · exact .inl ((hostAnswer_loaded ha).trans hloaded)
  · exact .inr ⟨rest, hi⟩

/-- Settles O57: within the invariant a failed link has no operation in progress, so no answer is due; a call leaves
`link` as it is, and `send` and `open` find it neither `Open` nor `Closed`. -/
theorem failedLinkStaysFailed : Obligations.FailedLinkStaysFailed := by
  unfold Obligations.FailedLinkStaysFailed
  intro s hs hlink
  have hready : s.thread = .ready := thread_ready_of_failed hs hlink
  refine ⟨fun t h => ?_, fun m rest hi => ?_, fun rest hi => ?_⟩
  · rcases step_cases_host h with ⟨hkept, -, -⟩ | ⟨c, rest, -, hc⟩ | ⟨a, rest, -, ha⟩ | ⟨rest, hi, -⟩
    · exact .inl (hkept.trans hlink)
    · exact .inl ((hostCall_link hc).trans hlink)
    · exact absurd hready (hostAnswer_thread_ne_ready (s := s.takeInput rest) ha)
    · exact .inr ⟨rest, hi⟩
  · simp [step_call hi, hostCall, callSend, hready, hlink]
  · simp [step_call hi, hostCall, callOpen, hready, hlink]

/-- Settles O1: R22, R26 and R33 read off `State.reset`. -/
theorem resetValuesOfEveryUnit : Obligations.ResetValuesOfEveryUnit :=
  ⟨idle_op, idle_acc, idle_rem, outputs_none_msg, outputs_none_ferr, rfl, rfl⟩

/-- With the host free, the call of the load is `loadConfiguration`. -/
theorem step_loadConfiguration {s : State} {rest : List Input} (hready : s.thread = .ready)
    (hi : s.inputs = .call .loadConfiguration :: rest) : step s = loadConfiguration (s.takeInput rest) := by
  simp [step_call hi, hostCall, hready]

/-- Settles O44: the three branches of `loadConfiguration`, with R24's ranges as `Geometry.legal`. -/
theorem configurationIsLoadedOnceAndLegal : Obligations.ConfigurationIsLoadedOnceAndLegal := by
  unfold Obligations.ConfigurationIsLoadedOnceAndLegal
  intro s g rest hready hg hi
  rw [step_loadConfiguration hready hi]
  refine ⟨fun hloaded hrows hcolumns hnum => ?_, fun hloaded houtside => ?_, fun hloaded => ?_⟩
  · have hlegal : g.legal = true := g.legal_iff.mpr ⟨hrows, hcolumns, hnum⟩
    simp [loadConfiguration, hloaded, hg, hlegal, State.finish, State.takeInput, hready, Outputs.none]
  · have hillegal : ¬ g.legal = true := by
      rw [g.legal_iff, Geometry.num, Geometry.R, Geometry.C]
      omega
    simp [loadConfiguration, hloaded, hg, hillegal]
  · simp [loadConfiguration, hloaded]

end Sys2Proof.Machine

/-! Proofs of the statements about the block's message streams (spec/20_memory.md): a message takes effect in the step
that takes its last byte, and a faithful delivery hands every message over in order. -/

namespace Sys2Proof.Machine

/-! ### Decoding an opcode and its whole payload -/

/-- An opcode and a payload that `build` accepts decode to what it builds, and the bytes after them are left. -/
theorem decode_opcode_payload {k : MessageKind} {p : List Byte} {i : Instr} (rest : List Byte)
    (h : k.build p = some i) : decode (k.opcode :: (p ++ rest)) = .ok (i, rest) := by
  have hlen : p.length = k.payloadLen := length_of_build h
  simp [decode, opcode_ne_resyncByte, ← hlen, h]

theorem decode_encodeMessage (m : WireMessage) (rest : List Byte) :
    decode (encodeMessage m ++ rest) = .ok (m.toInstr, rest) := by
  obtain ⟨p, henc, -, hbuild⟩ := encodeMessage_parts m
  rw [henc]
  exact decode_opcode_payload rest hbuild

theorem encodeMessage_payloadless {m : WireMessage} (h : m.kind.payloadLen = 0) : encodeMessage m = [m.tag] := by
  obtain ⟨p, henc, hlen, -⟩ := encodeMessage_parts m
  rw [henc, List.eq_nil_of_length_eq_zero (hlen.trans h)]

/-! ### A message takes effect on its last byte (R40) -/

/-- Within R21 the instruction that a byte completes, if it is a message, is what the bytes collected and that byte
decode to (R87, R91). -/
theorem decode_collected_of_action {d : Decoder} {b : Byte} {m : WireMessage} (hd : d.wf = true)
    (h : d.action b = .run m.toInstr) : decode (d.collected ++ [b]) = .ok (m.toInstr, []) := by
  cases ho : d.op with
  | none =>
    rw [action_idle d b ho] at h
    rw [eq_idle_of_wf hd ho]
    rcases opcodeAction_cases b with ⟨-, ha⟩ | ⟨m', rfl, hlen, ha⟩ | ⟨k, -, -, ha⟩ | ⟨-, -, ha⟩ <;>
      simp only [ha, FeedAction.run.injEq, reduceCtorEq] at h
    · exact absurd h.symm (toInstr_ne_resync m)
    · have hdecode := decode_encodeMessage m' []
      rwa [encodeMessage_payloadless hlen, h] at hdecode
  | some o =>
    obtain ⟨k, rfl, hr, hl⟩ := collecting_of_wf hd ho
    rw [action_collecting d _ b ho] at h
    rcases payloadAction_cases k d.acc d.rem b hr hl with ⟨-, ha⟩ | ⟨-, m', -, hbuild, ha⟩ <;>
      simp only [ha, FeedAction.run.injEq, reduceCtorEq] at h
    rw [h] at hbuild
    simpa [Decoder.collected, ho] using decode_opcode_payload [] hbuild

/-- A Decoder step hands no message over, or the one that its byte completes. -/
theorem deviceByte_consumer {b : Byte} {s t : State} (hs : s.dec.wf = true) (h : deviceByte b s = .next t) :
    t.consumer = s.consumer ∨
    ∃ m : WireMessage, decode (s.dec.collected ++ [b]) = .ok (m.toInstr, []) ∧ t = s.emitMessage m := by
  rcases deviceByte_cases h with ⟨-, rfl⟩ | ⟨m, ha, rfl⟩ | ⟨d, -, rfl⟩ | ⟨e, -, rfl⟩
  · exact .inl rfl
  · exact .inr ⟨m, decode_collected_of_action hs ha, rfl⟩
  · exact .inl rfl
  · exact .inl rfl

/-- Settles O35: only a Decoder step writes the consumer's sequence, and `deviceByte_consumer` says how. -/
theorem messageTakesEffectOnItsLastByteOnly : Obligations.MessageTakesEffectOnItsLastByteOnly := by
  unfold Obligations.MessageTakesEffectOnItsLastByteOnly
  intro s t hs h
  rcases step_cases h with ⟨-, rfl⟩ | ⟨rest, -, rfl⟩ | ⟨b, c, rest, hi, hb⟩ | ⟨rest, -, rfl⟩ | ⟨c, rest, -, hc⟩ |
    ⟨a, rest, -, ha⟩ | ⟨rest, -, rfl⟩
  · exact .inl rfl
  · exact .inl rfl
  · rcases deviceByte_consumer (s := s.takeInput (readRest c rest)) hs hb with hkept | ⟨m, hdecode, rfl⟩
    · exact .inl hkept
    · exact .inr ⟨m, b, c, rest, hi, hdecode, rfl, rfl, rfl⟩
  · exact .inl rfl
  · obtain ⟨hcons, -⟩ := hostCall_deviceFrame hc
    exact .inl hcons
  · obtain ⟨hcons, -⟩ := hostAnswer_deviceFrame ha
    exact .inl hcons
  · exact .inl rfl

/-! ### `feedChunk` over a concatenation (R92, R94) -/

/-- The result of one byte, as a chunk's. -/
def FeedResult.toChunk (r : FeedResult) : ChunkResult :=
  { dec := r.dec, msgs := r.msg.toList, ferrs := r.ferr.toList }

/-- The result of feeding on: the later state, and the outputs in byte order. -/
def ChunkResult.append (r₁ r₂ : ChunkResult) : ChunkResult :=
  { dec := r₂.dec, msgs := r₁.msgs ++ r₂.msgs, ferrs := r₁.ferrs ++ r₂.ferrs }

theorem feedChunk_cons (d : Decoder) (b : Byte) (c : List Byte) :
    feedChunk d (b :: c) = (feed d b).bind fun r => (feedChunk r.dec c).map r.toChunk.append := by
  rw [feedChunk]
  cases feed d b with
  | none => rfl
  | some r =>
    simp only [Option.bind_some]
    cases feedChunk r.dec c <;> rfl

theorem feedChunk_append (d : Decoder) (xs ys : List Byte) :
    feedChunk d (xs ++ ys) = (feedChunk d xs).bind fun r => (feedChunk r.dec ys).map r.append := by
  induction xs generalizing d with
  | nil => cases h : feedChunk d ys <;> simp [feedChunk, ChunkResult.append, h]
  | cons b xs ih =>
    rw [List.cons_append, feedChunk_cons, feedChunk_cons, Option.bind_assoc]
    congr 1
    funext r
    rw [ih]
    cases feedChunk r.dec xs with
    | none => rfl
    | some r₁ => cases h : feedChunk r₁.dec ys <;> simp [ChunkResult.append, h]

/-! ### The encoded stream through an Idle Decoder (R61, R96) -/

theorem feedChunk_singleton {d : Decoder} {b : Byte} {r : FeedResult} (h : feed d b = some r) :
    feedChunk d [b] = some r.toChunk := by
  simp [feedChunk, h, FeedResult.toChunk]

theorem feedChunk_cons_of_feed {d : Decoder} {b : Byte} {c : List Byte} {r : FeedResult} {q : ChunkResult}
    (h : feed d b = some r) (hc : feedChunk r.dec c = some q) : feedChunk d (b :: c) = some (r.toChunk.append q) := by
  rw [feedChunk_cons, h, Option.bind_some, hc, Option.map_some]

/-- A Decoder that expects exactly the bytes `p` builds its message from them and is Idle (R90, R91). -/
theorem feedChunk_payload {k : MessageKind} {m : WireMessage} (p acc : List Byte) (hp : p ≠ [])
    (h : k.build (acc ++ p) = some m.toInstr) :
    feedChunk { op := some k.opcode, acc := acc, rem := p.length } p =
      some { dec := Decoder.idle, msgs := [m], ferrs := [] } := by
  induction p generalizing acc with
  | nil => exact absurd rfl hp
  | cons b p ih =>
    cases p with
    | nil =>
      have ha : Decoder.action { op := some k.opcode, acc := acc, rem := 1 } b = .run m.toInstr := by
        simp [Decoder.action, payloadAction, h]
      exact feedChunk_singleton (feed_message ha)
    | cons b' p =>
      have ha : Decoder.action { op := some k.opcode, acc := acc, rem := p.length + 2 } b =
          .collect { op := some k.opcode, acc := acc ++ [b], rem := p.length + 1 } := rfl
      exact feedChunk_cons_of_feed (feed_collect ha) (ih (acc ++ [b]) (by simp) (by simpa using h))

theorem feedChunk_encodeMessage (m : WireMessage) :
    feedChunk Decoder.idle (encodeMessage m) = some { dec := Decoder.idle, msgs := [m], ferrs := [] } := by
  by_cases hlen : m.kind.payloadLen = 0
  · rw [encodeMessage_payloadless hlen]
    have ha : Decoder.idle.action m.tag = .run m.toInstr := opcodeAction_payloadless m hlen
    exact feedChunk_singleton (feed_message ha)
  · obtain ⟨p, henc, hp, hbuild⟩ := encodeMessage_parts m
    have ha : Decoder.idle.action m.tag = .collect { op := some m.tag, acc := [], rem := p.length } :=
      hp ▸ opcodeAction_opcode m.kind (by omega)
    have hne : p ≠ [] := by rintro rfl; exact hlen hp.symm
    rw [henc]
    exact feedChunk_cons_of_feed (feed_collect ha) (feedChunk_payload p [] hne hbuild)

theorem feedChunk_encodeMessages (ms : List WireMessage) :
    feedChunk Decoder.idle (encodeMessages ms) = some { dec := Decoder.idle, msgs := ms, ferrs := [] } := by
  induction ms with
  | nil => rfl
  | cons m ms ih =>
    have hsplit : encodeMessages (m :: ms) = encodeMessage m ++ encodeMessages ms := List.flatMap_cons
    rw [hsplit, feedChunk_append, feedChunk_encodeMessage, Option.bind_some, ih]
    rfl

/-! ### The machine's Decoder step is `feed` (R85) -/

/-- What a byte's result does to the state. -/
def State.receive (s : State) (r : FeedResult) : State :=
  { s with
    dec := r.dec, out := { msg := r.msg, ferr := r.ferr }, consumer := s.consumer ++ r.msg.toList,
    deviceLog := s.deviceLog ++ r.ferr.toList.map Event.framingError }

theorem deviceByte_of_feed {s : State} {b : Byte} {r : FeedResult} (hout : s.out = Outputs.none)
    (h : feed s.dec b = some r) : deviceByte b s = .next (s.receive r) := by
  cases ha : s.dec.action b with
  | run i =>
    rcases exec_cases i s with ⟨rfl, he⟩ | ⟨m, rfl, he⟩
    · rw [feed_resync ha] at h; cases h
      simp [deviceByte, ha, he, State.receive, Outputs.none]
    · rw [feed_message ha] at h; cases h
      simp [deviceByte, ha, he, State.receive, State.emitMessage]
  | collect d =>
    rw [feed_collect ha] at h; cases h
    simp [deviceByte, ha, State.receive, State.setDecoder, hout, Outputs.none]
  | framingError e =>
    rw [feed_framingError ha] at h; cases h
    simp [deviceByte, ha, State.receive, State.setDecoder, State.raiseEvent]
  | noRule => simp [feed, ha] at h

theorem step_read_feed {s : State} {b : Byte} {c : List Byte} {rest : List Input} {r : FeedResult}
    (hi : s.inputs = .read (b :: c) :: rest) (h : feed s.dec b = some r) :
    step s = .next ((s.takeInput (readRest c rest)).receive r) := by
  rw [step_read_cons hi]
  exact deviceByte_of_feed (takeInput_out s _) h

/-! ### Runs over a delivery (R35, R39) -/

theorem RunsTo.refl (s : State) : RunsTo s s := ⟨0, run_zero s⟩

theorem RunsTo.head {s u t : State} (h : step s = .next u) (hut : RunsTo u t) : RunsTo s t := by
  obtain ⟨k, hk⟩ := hut
  exact ⟨k + 1, (run_succ h).trans hk⟩

/-- `t` is `s` after bytes that the Decoder made `r` of, with `rest` still to come. The outputs are those of the last
step, and are left open. -/
structure Received (s : State) (r : ChunkResult) (rest : List Input) (t : State) : Prop where
  inputs : t.inputs = rest
  dec : t.dec = r.dec
  consumer : t.consumer = s.consumer ++ r.msgs
  deviceLog : t.deviceLog = s.deviceLog ++ r.ferrs.map Event.framingError
  link : t.link = s.link
  thread : t.thread = s.thread
  loaded : t.loaded = s.loaded
  hostLog : t.hostLog = s.hostLog
  written : t.written = s.written
  params : t.params = s.params

theorem Received.refl (s : State) : Received s { dec := s.dec, msgs := [], ferrs := [] } s.inputs s := by
  constructor <;> simp

/-- The start of a step takes no byte: it clears the outputs and sets the inputs that are left. -/
theorem Received.of_takeInput {s t : State} {q : ChunkResult} {mid rest : List Input}
    (h : Received (s.takeInput mid) q rest t) : Received s q rest t :=
  { h with }

/-- One byte more in front: its result comes first. -/
theorem Received.of_receive {s t : State} {r : FeedResult} {q : ChunkResult} {rest : List Input}
    (h : Received (s.receive r) q rest t) : Received s (r.toChunk.append q) rest t :=
  { h with
    consumer := by simp [h.consumer, State.receive, ChunkResult.append, FeedResult.toChunk]
    deviceLog := by simp [h.deviceLog, State.receive, ChunkResult.append, FeedResult.toChunk] }

/-- A run over one byte and then over what is left of the delivery. -/
theorem runsTo_of_byte {s : State} {b : Byte} {c : List Byte} {ins rest : List Input} {r : FeedResult}
    {q : ChunkResult} (hi : s.inputs = .read (b :: c) :: ins) (hr : feed s.dec b = some r)
    (htail : ∃ t, RunsTo ((s.takeInput (readRest c ins)).receive r) t ∧
      Received ((s.takeInput (readRest c ins)).receive r) q rest t) :
    ∃ t, RunsTo s t ∧ Received s (r.toChunk.append q) rest t := by
  obtain ⟨t, hrun, ht⟩ := htail
  exact ⟨t, .head (step_read_feed hi hr) hrun, ht.of_receive.of_takeInput⟩

/-- A delivery in any chunking runs through as `feedChunk` of its bytes: by induction on the chunks, and within a chunk
on its bytes, one a step. -/
theorem runsTo_delivery {chunks : List (List Byte)} {rest : List Input} {s : State} {q : ChunkResult}
    (hi : s.inputs = chunks.map Input.read ++ rest) (hq : feedChunk s.dec chunks.flatten = some q) :
    ∃ t, RunsTo s t ∧ Received s q rest t := by
  induction chunks generalizing s q with
  | nil =>
    cases hq
    obtain rfl : s.inputs = rest := hi
    exact ⟨s, .refl s, .refl s⟩
  | cons c chunks ihChunks =>
    induction c generalizing s q with
    | nil =>
      obtain ⟨t, hrun, ht⟩ := ihChunks (s := s.takeInput (chunks.map Input.read ++ rest)) rfl hq
      exact ⟨t, .head (step_read_nil hi) hrun, ht.of_takeInput⟩
    | cons b c ihBytes =>
      rw [List.flatten_cons, List.cons_append, feedChunk_cons] at hq
      simp only [Option.bind_eq_some_iff, Option.map_eq_some_iff] at hq
      obtain ⟨r, hr, q', hq', rfl⟩ := hq
      refine runsTo_of_byte hi hr ?_
      cases c with
      | nil => exact ihChunks rfl hq'
      | cons b' c => exact ihBytes rfl hq'

/-- Settles O34: the stream through an Idle Decoder gives its messages (`feedChunk_encodeMessages`), and the machine
runs through the delivery as `feedChunk` does (`runsTo_delivery`). -/
theorem deliveredMessagesReachTheConsumerInOrder : Obligations.DeliveredMessagesReachTheConsumerInOrder := by
  unfold Obligations.DeliveredMessagesReachTheConsumerInOrder
  intro s ms rest hidle ⟨chunks, hbytes, hi⟩
  have hfeed : feedChunk s.dec chunks.flatten = some { dec := Decoder.idle, msgs := ms, ferrs := [] } := by
    rw [hidle, hbytes, feedChunk_encodeMessages]
  obtain ⟨t, hrun, ht⟩ := runsTo_delivery hi hfeed
  exact ⟨t, hrun, ht.inputs, ht.dec, ht.consumer, by simpa using ht.deviceLog, ht.link, ht.thread, ht.loaded, ht.hostLog,
    ht.written, ht.params⟩

end Sys2Proof.Machine

/-! Proofs of the statements about the encoding (spec/30_encoding.md): the opcode table, decoding and encoding,
the textual forms of byte streams, and the bytes in the opcode position that carry no message. -/

namespace Sys2Proof.Machine

/-! ### Decode inverts encode (R47, R55, R56) -/

/-- The resync byte is an instruction of its own, whatever follows (R56). -/
theorem decode_resync (rest : List Byte) : decode (resyncByte :: rest) = .ok (.resync, rest) := by
  simp [decode]

/-- Settles O13: an instruction is the resync byte, or carries a message (`decode_encodeMessage`). -/
theorem decodeInvertsEncode : Obligations.DecodeInvertsEncode := by
  unfold Obligations.DecodeInvertsEncode
  intro i rest
  rcases eq_resync_or_toInstr i with rfl | ⟨m, rfl⟩
  · exact decode_resync rest
  · exact decode_encodeMessage m rest

/-! ### The opcode table (R55, R57) -/

theorem messageKind_mem_all (k : MessageKind) : k ∈ MessageKind.all := by cases k <;> decide

/-- The known bytes are the opcode bytes of the table. -/
theorem known_iff_mem (b : Byte) : known b = true ↔ b ∈ MessageKind.all.map MessageKind.opcode := by
  constructor
  · intro h
    obtain ⟨k, hk⟩ := Option.isSome_iff_exists.mp h
    exact List.mem_map.mpr ⟨k, messageKind_mem_all k, (opcode_of_kindOf hk).symm⟩
  · intro h
    obtain ⟨k, -, rfl⟩ := List.mem_map.mp h
    simp [known]

theorem plen_unknown {b : Byte} (h : ¬ known b = true) : plen b = none := by
  simpa [known, plen] using h

/-- Settles O11: a known byte is the opcode of one of the seven kinds, and at any other both sides are undefined. -/
theorem payloadLengthOfEveryByte : Obligations.PayloadLengthOfEveryByte := by
  unfold Obligations.PayloadLengthOfEveryByte
  intro b
  refine ⟨?_, known_iff_mem b⟩
  by_cases h : known b = true
  · obtain ⟨k, -, rfl⟩ := List.mem_map.mp ((known_iff_mem b).mp h)
    cases k <;> decide
  · rw [plen_unknown h]
    simp only [known_iff_mem, MessageKind.all, List.map, MessageKind.opcode, List.mem_cons, not_or] at h
    simp [h]

/-! ### Table words (R49 to R53) -/

/-- A table word whose bytes begin with an encoding decodes to its instruction. -/
theorem decodeTableWord_of_encode {nbits w : Nat} {i : Instr} (rest : List Byte)
    (h : tableWordBytes nbits w = encode i ++ rest) : decodeTableWord nbits w = some i := by
  rw [decodeTableWord, h, decodeInvertsEncode i rest]

/-- Settles O12: a word is its instruction's encoding and then zeros, but for the Boolean byte `80`, which no encoding
has, and the unknown opcode `41`. -/
theorem writtenWordsDecode : Obligations.WrittenWordsDecode := by
  unfold Obligations.WrittenWordsDecode
  refine ⟨?_, ?_, ?_, ?_, ?_, ?_, ?_, ?_, ?_⟩
  · exact decodeTableWord_of_encode (zeros 3) (by decide)
  · exact decodeTableWord_of_encode (zeros 5) (by decide)
  · exact decodeTableWord_of_encode (zeros 5) (by decide)
  · exact decodeTableWord_of_encode (zeros 0) (by decide)
  · exact decodeTableWord_of_encode (zeros 1) (by decide)
  · decide
  · exact decodeTableWord_of_encode (zeros 3) (by decide)
  · exact decodeTableWord_of_encode (zeros 5) (by decide)
  · decide

/-! ### A message through an Idle Decoder (R61) -/

/-- An opcode and a payload from which `build` gives a message go through an Idle Decoder as that message, whether or
not they are its encoding. -/
theorem feedChunk_of_build {m : WireMessage} {p : List Byte} (h : m.kind.build p = some m.toInstr) :
    feedChunk Decoder.idle (m.tag :: p) = some { dec := Decoder.idle, msgs := [m], ferrs := [] } := by
  have hlen : p.length = m.kind.payloadLen := length_of_build h
  by_cases hp : p = []
  · subst hp
    rw [← encodeMessage_payloadless hlen.symm]
    exact feedChunk_encodeMessage m
  · have ha : Decoder.idle.action m.tag = .collect { op := some m.tag, acc := [], rem := p.length } :=
      hlen ▸ opcodeAction_opcode m.kind (hlen ▸ List.length_pos_iff.mpr hp)
    exact feedChunk_cons_of_feed (feed_collect ha) (feedChunk_payload p [] hp h)

/-- A Decoder that expects more than the bytes `p` only collects them (R90). -/
theorem feedChunk_collects (o : Byte) (p acc : List Byte) {r : Nat} (h : p.length < r) :
    feedChunk { op := some o, acc := acc, rem := r } p =
      some { dec := { op := some o, acc := acc ++ p, rem := r - p.length }, msgs := [], ferrs := [] } := by
  induction p generalizing acc r with
  | nil => simp [feedChunk]
  | cons b p ih =>
    rw [List.length_cons] at h
    obtain ⟨n, rfl⟩ : ∃ n, r = n + 2 := ⟨r - 2, by omega⟩
    have ha : Decoder.action { op := some o, acc := acc, rem := n + 2 } b =
        .collect { op := some o, acc := acc ++ [b], rem := n + 1 } := rfl
    rw [feedChunk_cons_of_feed (feed_collect ha) (ih (acc ++ [b]) (by omega))]
    simp [FeedResult.toChunk, ChunkResult.append]

/-- Before the last byte of an encoding, an Idle Decoder emits nothing. -/
theorem feedChunk_encodeMessage_take (m : WireMessage) {k : Nat} (h : k < (encodeMessage m).length) :
    ∃ d, feedChunk Decoder.idle ((encodeMessage m).take k) = some { dec := d, msgs := [], ferrs := [] } := by
  obtain ⟨p, henc, hlen, -⟩ := encodeMessage_parts m
  rw [henc, List.length_cons] at h
  rw [henc]
  cases k with
  | zero => exact ⟨Decoder.idle, rfl⟩
  | succ k =>
    have hk : (p.take k).length < m.kind.payloadLen := by rw [List.length_take]; omega
    have ha : Decoder.idle.action m.tag = .collect { op := some m.tag, acc := [], rem := m.kind.payloadLen } :=
      opcodeAction_opcode m.kind (by omega)
    exact ⟨_, feedChunk_cons_of_feed (feed_collect ha) (feedChunk_collects m.tag (p.take k) [] hk)⟩

/-! ### The converse: which payloads are encodings (R54, R61) -/

theorem byteBool_of_two_le {b : Byte} (h : 2 ≤ b.toNat) : byteBool b = true := by
  have hb : b ≠ 0x00#8 := by rintro rfl; exact absurd h (by decide)
  simpa [byteBool] using hb

theorem boolByte_byteBool {b : Byte} (h : b.toNat < 2) : boolByte (byteBool b) = b := by
  obtain rfl | rfl : b = 0x00#8 ∨ b = 0x01#8 := by bv_omega
  · rfl
  · rfl

/-- A payload from which `build` gives a message is the one of its encoding, unless it is a Boolean byte other than `00`
and `01` (D5). -/
theorem encodeMessage_of_build {m : WireMessage} {p : List Byte} (h : m.kind.build p = some m.toInstr) :
    encodeMessage m = m.tag :: p ∨ (m = .setAutoRender true ∧ ∃ b : Byte, p = [b] ∧ 2 ≤ b.toNat) := by
  have hlen : p.length = m.kind.payloadLen := length_of_build h
  cases m with
  | init n =>
    match p, hlen with
    | [p0, p1], _ => cases h; exact .inl (congrArg _ (bytes_u16le p0 p1))
  | clear =>
    match p, hlen with
    | [], _ => exact .inl rfl
  | showPixels =>
    match p, hlen with
    | [], _ => exact .inl rfl
  | setPixel a r g b =>
    match p, hlen with
    | [p0, p1, _, _, _], _ => cases h; exact .inl (congrArg (_ :: · ++ _) (bytes_u16le p0 p1))
  | setClock t =>
    match p, hlen with
    | [p0, p1, p2, p3], _ => cases h; exact .inl (congrArg _ (bytes_u32le p0 p1 p2 p3))
  | setAutoRender e =>
    match p, hlen with
    | [b], _ =>
      cases h
      by_cases hb : b.toNat < 2
      · exact .inl (congrArg (fun c => [_, c]) (boolByte_byteBool hb))
      · have hb : 2 ≤ b.toNat := by omega
        exact .inr ⟨congrArg _ (byteBool_of_two_le hb), b, rfl, hb⟩
  | suspendHost s =>
    match p, hlen with
    | [p0, p1], _ => cases h; exact .inl (congrArg _ (bytes_u16le p0 p1))

/-- Settles O14. The converse: the Decoder's message is the one that `build` gives from the payload
(`feedChunk_of_build`), and `encodeMessage_of_build` says when that payload is its encoding's. -/
theorem messageRoundTripThroughTheDecoder : Obligations.MessageRoundTripThroughTheDecoder := by
  unfold Obligations.MessageRoundTripThroughTheDecoder
  constructor
  · intro m
    obtain ⟨p, henc, hlen, -⟩ := encodeMessage_parts m
    refine ⟨⟨m.kind.payloadLen, plen_opcode m.kind, ?_⟩, ?_, opcode_ne_resyncByte m.kind, ?_,
      feedChunk_encodeMessage m, fun k hk => feedChunk_encodeMessage_take m hk⟩
    · rw [henc, List.length_cons, hlen, Nat.add_comm]
    · rw [henc]; rfl
    · exact (known_iff_mem m.tag).mpr (List.mem_map_of_mem (messageKind_mem_all m.kind))
  · intro o p m hplen hfeed
    obtain ⟨k, rfl, hlen⟩ := plen_eq_some hplen
    obtain ⟨m', hbuild, rfl⟩ := build_of_length k p hlen
    have hm : m' = m := by
      have hfeed' := (feedChunk_of_build hbuild).symm.trans hfeed
      simpa using hfeed'
    subst hm
    rcases encodeMessage_of_build hbuild with henc | ⟨rfl, hp⟩
    · exact .inl henc.symm
    · exact .inr ⟨rfl, rfl, hp⟩

/-! ### The textual forms of byte streams (R59, R60) -/

/-- Settles O15: each line by its equation, and a stream by that of `flatMap`. -/
theorem streamLinesExpand : Obligations.StreamLinesExpand := by
  unfold Obligations.StreamLinesExpand
  intro len m n bs l ls
  exact ⟨rfl, rfl, rfl, rfl, rfl, List.flatMap_cons⟩

/-- A line with a number outside its width writes no message. -/
theorem assembleTerm_of_not_wellFormed {t : MessageTerm} (h : ¬ t.wellFormed = true) : assembleTerm t = none :=
  if_neg h

/-- Settles O16: where the ranges of R59 hold, the number of each operand is its word's; where one does not, the term is
not well formed. -/
theorem messageLinesAssemble : Obligations.MessageLinesAssemble := by
  unfold Obligations.MessageLinesAssemble
  refine ⟨fun n hn => ?_, fun a r g b ha hr hg hb => ?_, fun t ht => ?_, fun n hn => ?_, fun e => rfl, rfl, rfl,
    fun n hn => ⟨?_, ?_⟩, fun a r g b h => ?_, fun t ht => ?_⟩
  · exact ⟨BitVec.ofNat 16 n, if_pos (decide_eq_true hn), Nat.mod_eq_of_lt hn⟩
  · exact ⟨BitVec.ofNat 16 a, BitVec.ofNat 8 r, BitVec.ofNat 8 g, BitVec.ofNat 8 b,
      if_pos (by simp [MessageTerm.wellFormed, ha, hr, hg, hb]),
      Nat.mod_eq_of_lt ha, Nat.mod_eq_of_lt hr, Nat.mod_eq_of_lt hg, Nat.mod_eq_of_lt hb⟩
  · exact ⟨BitVec.ofNat 32 t, if_pos (decide_eq_true ht), Nat.mod_eq_of_lt ht⟩
  · exact ⟨BitVec.ofNat 16 n, if_pos (decide_eq_true hn), Nat.mod_eq_of_lt hn⟩
  all_goals
    apply assembleTerm_of_not_wellFormed
    simp only [MessageTerm.wellFormed, Bool.and_eq_true, decide_eq_true_eq]
    omega

/-! ### The resync byte and the unknown opcodes (R56, R57, R89) -/

/-- Settles O18: the resync instruction is the one that only clears the outputs (R86). -/
theorem resyncCompletesWithNoEffect : Obligations.ResyncCompletesWithNoEffect := by
  unfold Obligations.ResyncCompletesWithNoEffect
  intro s
  rfl

theorem deviceByte_framingError {s : State} {b e : Byte} (h : s.dec.action b = .framingError e) :
    deviceByte b s = .next ((s.setDecoder Decoder.idle).raiseEvent (.framingError e)) := by
  simp [deviceByte, h]

/-- The numbers of the bytes that an Idle Decoder accepts: the resync byte and the seven opcodes. -/
def acceptedCodes : List Nat := (resyncByte :: MessageKind.all.map MessageKind.opcode).map BitVec.toNat

theorem mem_acceptedCodes_iff {n : Nat} (hn : n < 256) :
    n ∈ acceptedCodes ↔ n = 0 ∨ known (BitVec.ofNat 8 n) = true := by
  have hbyte (b : Byte) : b.toNat = n ↔ b = BitVec.ofNat 8 n := by bv_omega
  have hzero : BitVec.ofNat 8 n = resyncByte ↔ n = 0 := by rw [eq_comm, ← hbyte, eq_comm]; rfl
  simp only [acceptedCodes, List.mem_map, hbyte, exists_eq_right, List.mem_cons, hzero, known_iff_mem]

/-- Of the 256 bytes, all but the 8 accepted ones are unknown (R57). -/
theorem countP_unknown :
    (List.range 256).countP (fun n => decide (n ≠ 0) && !known (BitVec.ofNat 8 n)) = 248 := by
  have haccepted : ((List.range 256).filter fun n => !(decide (n ≠ 0) && !known (BitVec.ofNat 8 n))).Perm
      acceptedCodes := by
    rw [List.perm_ext_iff_of_nodup (List.nodup_range.filter _) (by decide)]
    intro n
    by_cases hn : n < 256
    · simp [mem_acceptedCodes_iff hn, hn]
    · have hbound : ∀ k ∈ acceptedCodes, k < 256 := by decide
      simp [hn, mt (hbound n) hn]
  have htotal := (List.range 256).length_eq_length_filter_add
    (fun n => decide (n ≠ 0) && !known (BitVec.ofNat 8 n))
  have hlen : acceptedCodes.length = 8 := rfl
  rw [List.length_range, haccepted.length_eq, hlen] at htotal
  rw [List.countP_eq_length_filter]
  omega

/-- Settles O25: the count is `countP_unknown`, and an Idle Decoder reports an unknown byte (`opcodeAction_unknown`). -/
theorem unknownOpcodeIsFramingError : Obligations.UnknownOpcodeIsFramingError := by
  unfold Obligations.UnknownOpcodeIsFramingError
  refine ⟨countP_unknown, fun s b c rest hidle hb hunknown hi => ?_⟩
  have ha : (s.takeInput (readRest c rest)).dec.action b = .framingError b :=
    (action_idle s.dec b hidle).trans (opcodeAction_unknown hb hunknown)
  rw [step_read_cons hi, deviceByte_framingError ha]
  rfl

end Sys2Proof.Machine

/-! Proofs of the statements about the CoordinateMapper (spec/40_coordinate_mapper.md): the rotation and the serpentine,
each with its inverse, the two operations built from them, and the steps of the host that call these. -/

namespace Sys2Proof.Geometry

variable {g : Geometry}

/-! ### The four turns (R63, R64, R68) -/

theorem turn_rot0 (h : g.rot = 0#2) : g.W = g.C ∧ g.H = g.R ∧
    (∀ x y, g.rotate x y = (x, y)) ∧ ∀ pc pr, g.unrotate pc pr = (pc, pr) := by
  have hturn : g.rotation = .deg0 := congrArg Rotation.ofBits h
  simp [W, H, rotate, unrotate, hturn]

theorem turn_rot1 (h : g.rot = 1#2) : g.W = g.R ∧ g.H = g.C ∧
    (∀ x y, g.rotate x y = (g.C - 1 - y, x)) ∧ ∀ pc pr, g.unrotate pc pr = (pr, g.C - 1 - pc) := by
  have hturn : g.rotation = .deg90 := congrArg Rotation.ofBits h
  simp [W, H, rotate, unrotate, hturn]

theorem turn_rot2 (h : g.rot = 2#2) : g.W = g.C ∧ g.H = g.R ∧
    (∀ x y, g.rotate x y = (g.C - 1 - x, g.R - 1 - y)) ∧
    ∀ pc pr, g.unrotate pc pr = (g.C - 1 - pc, g.R - 1 - pr) := by
  have hturn : g.rotation = .deg180 := congrArg Rotation.ofBits h
  simp [W, H, rotate, unrotate, hturn]

theorem turn_rot3 (h : g.rot = 3#2) : g.W = g.R ∧ g.H = g.C ∧
    (∀ x y, g.rotate x y = (y, g.R - 1 - x)) ∧ ∀ pc pr, g.unrotate pc pr = (g.R - 1 - pr, pc) := by
  have hturn : g.rotation = .deg270 := congrArg Rotation.ofBits h
  simp [W, H, rotate, unrotate, hturn]

/-- A turn keeps the panel's two sides or swaps them. -/
theorem extent_cases (g : Geometry) : (g.W = g.C ∧ g.H = g.R) ∨ (g.W = g.R ∧ g.H = g.C) := by
  cases h : g.rotation <;> simp [W, H, h]

theorem W_mul_H (g : Geometry) : g.W * g.H = g.num := by
  rcases g.extent_cases with ⟨hW, hH⟩ | ⟨hW, hH⟩
  · rw [hW, hH, num, Nat.mul_comm]
  · rw [hW, hH, num]

/-- The extents are sides of the panel, so they fit the operands' 16 bits. -/
theorem extent_lt (g : Geometry) : g.W < 2 ^ 16 ∧ g.H < 2 ^ 16 := by
  have hR : g.R < 2 ^ 16 := g.rows.isLt
  have hC : g.C < 2 ^ 16 := g.columns.isLt
  rcases g.extent_cases with ⟨hW, hH⟩ | ⟨hW, hH⟩ <;> omega

/-! ### The rotation and its inverse -/

/-- A valid coordinate lands on the panel. -/
theorem rotate_lt {x y : Nat} (hx : x < g.W) (hy : y < g.H) :
    (g.rotate x y).1 < g.C ∧ (g.rotate x y).2 < g.R := by
  cases h : g.rotation <;> simp only [W, H, rotate, h] at hx hy ⊢ <;> omega

/-- A place on the panel shows a valid coordinate. -/
theorem unrotate_lt {pc pr : Nat} (hpc : pc < g.C) (hpr : pr < g.R) :
    (g.unrotate pc pr).1 < g.W ∧ (g.unrotate pc pr).2 < g.H := by
  cases h : g.rotation <;> simp only [W, H, unrotate, h] <;> omega

theorem unrotate_rotate {x y : Nat} (hx : x < g.W) (hy : y < g.H) :
    g.unrotate (g.rotate x y).1 (g.rotate x y).2 = (x, y) := by
  cases h : g.rotation <;>
    simp only [W, H, rotate, unrotate, h, Prod.mk.injEq, true_and, and_true] at hx hy ⊢ <;> omega

theorem rotate_unrotate {pc pr : Nat} (hpc : pc < g.C) (hpr : pr < g.R) :
    g.rotate (g.unrotate pc pr).1 (g.unrotate pc pr).2 = (pc, pr) := by
  cases h : g.rotation <;> simp only [rotate, unrotate, h, Prod.mk.injEq, true_and, and_true] <;> omega

/-- Settles O36: the four turns, and `W_mul_H` and `rotate_lt` for all of them; on a square panel `ROWS` and `COLUMNS`
are one number. -/
theorem extentAndRotationOfEveryRot : Obligations.ExtentAndRotationOfEveryRot := by
  unfold Obligations.ExtentAndRotationOfEveryRot
  intro g
  refine ⟨fun h => ?_, fun h => ?_, fun h => ?_, fun h => ?_, g.W_mul_H, fun x y => rotate_lt,
    fun hsquare x y => ⟨fun h => ?_, fun h => ?_⟩⟩
  · obtain ⟨hW, hH, hrotate, -⟩ := turn_rot0 h
    exact ⟨hW, hH, hrotate⟩
  · obtain ⟨hW, hH, hrotate, -⟩ := turn_rot1 h
    exact ⟨hW, hH, hrotate⟩
  · obtain ⟨hW, hH, hrotate, -⟩ := turn_rot2 h
    exact ⟨hW, hH, hrotate⟩
  · obtain ⟨hW, hH, hrotate, -⟩ := turn_rot3 h
    exact ⟨hW, hH, hrotate⟩
  · obtain ⟨-, -, hrotate, -⟩ := turn_rot1 h
    rw [hrotate, C, hsquare]
  · obtain ⟨-, -, hrotate, -⟩ := turn_rot3 h
    rw [hrotate, R, hsquare]

/-- Settles O38: the four turns, and `unrotate_lt` and `rotate_unrotate` for all of them. -/
theorem inverseRotation : Obligations.InverseRotation := by
  unfold Obligations.InverseRotation
  intro g pc pr hpc hpr
  obtain ⟨hx, hy⟩ := unrotate_lt (g := g) hpc hpr
  refine ⟨fun h => ?_, fun h => ?_, fun h => ?_, fun h => ?_, hx, hy, rotate_unrotate hpc hpr⟩
  · obtain ⟨-, -, -, hunrotate⟩ := turn_rot0 h
    exact hunrotate pc pr
  · obtain ⟨-, -, -, hunrotate⟩ := turn_rot1 h
    exact hunrotate pc pr
  · obtain ⟨-, -, -, hunrotate⟩ := turn_rot2 h
    exact hunrotate pc pr
  · obtain ⟨-, -, -, hunrotate⟩ := turn_rot3 h
    exact hunrotate pc pr

/-! ### The serpentine and its inverse (R65, R67)

Both directions count a column's LEDs from the end at which its strip begins, or mirror that count: the same map. -/

/-- How far along the strip of column `pc` the row `pr` lies, and the row that lies so far along it. -/
def alongStrip (g : Geometry) (pc pr : Nat) : Nat := if pc % 2 = 0 then pr else g.R - 1 - pr

theorem alongStrip_even {pc pr : Nat} (h : pc % 2 = 0) : g.alongStrip pc pr = pr := if_pos h

theorem alongStrip_odd {pc pr : Nat} (h : pc % 2 = 1) : g.alongStrip pc pr = g.R - 1 - pr := if_neg (by omega)

theorem alongStrip_lt {pc pr : Nat} (h : pr < g.R) : g.alongStrip pc pr < g.R := by
  unfold alongStrip
  split <;> omega

theorem alongStrip_alongStrip {pc pr : Nat} (h : pr < g.R) : g.alongStrip pc (g.alongStrip pc pr) = pr := by
  unfold alongStrip
  split <;> omega

theorem serp_eq (pc pr : Nat) : g.serp pc pr = pc * g.R + g.alongStrip pc pr := rfl

theorem unserp_eq (a : Nat) : g.unserp a = (a / g.R, g.alongStrip (a / g.R) (a % g.R)) := rfl

theorem serp_lt {pc pr : Nat} (hpc : pc < g.C) (hpr : pr < g.R) : g.serp pc pr < g.num := by
  have hstrip : g.alongStrip pc pr < g.R := alongStrip_lt hpr
  have hcolumn : pc * g.R + g.R ≤ g.num := column_run_le hpc
  rw [serp_eq]
  omega

/-- A panel that has an address has a row. -/
theorem R_pos_of_lt_num {a : Nat} (h : a < g.num) : 0 < g.R := by
  refine Nat.pos_of_ne_zero fun hR => ?_
  rw [num, hR, Nat.zero_mul] at h
  exact Nat.not_lt_zero a h

theorem unserp_lt {a : Nat} (h : a < g.num) : (g.unserp a).1 < g.C ∧ (g.unserp a).2 < g.R :=
  ⟨Nat.div_lt_of_lt_mul h, alongStrip_lt (Nat.mod_lt a (R_pos_of_lt_num h))⟩

theorem serp_unserp {a : Nat} (h : a < g.num) : g.serp (g.unserp a).1 (g.unserp a).2 = a := by
  have hrow : a % g.R < g.R := Nat.mod_lt a (R_pos_of_lt_num h)
  rw [serp_eq, unserp_eq, alongStrip_alongStrip hrow, Nat.div_add_mod']

theorem unserp_serp {pc pr : Nat} (hpr : pr < g.R) : g.unserp (g.serp pc pr) = (pc, pr) := by
  have hstrip : g.alongStrip pc pr < g.R := alongStrip_lt hpr
  have hcolumn : g.serp pc pr / g.R = pc := by
    rw [serp_eq, Nat.mul_comm, Nat.mul_add_div (by omega), Nat.div_eq_of_lt hstrip, Nat.add_zero]
  have hcount : g.serp pc pr % g.R = g.alongStrip pc pr := by
    rw [serp_eq, Nat.mul_add_mod', Nat.mod_eq_of_lt hstrip]
  rw [unserp_eq, hcolumn, hcount, alongStrip_alongStrip hpr]

/-- Settles O37: the serpentine and its inverse through `alongStrip`, which is its own inverse on the panel. -/
theorem serpentineAndItsInverse : Obligations.SerpentineAndItsInverse := by
  unfold Obligations.SerpentineAndItsInverse
  intro g _
  refine ⟨fun pc pr hpc hpr => ⟨fun heven => ?_, fun hodd => ?_, serp_lt hpc hpr⟩, fun a ha => ?_⟩
  · rw [serp_eq, alongStrip_even heven, R]
  · rw [serp_eq, alongStrip_odd hodd, R]
  · obtain ⟨hpc, hpr⟩ := unserp_lt (g := g) ha
    exact ⟨rfl, alongStrip_even, alongStrip_odd, hpc, hpr, serp_unserp ha⟩

/-! ### From a coordinate to its LED and back -/

/-- The address of the LED that shows the coordinate: what `to_physical` returns (R66). -/
def led (g : Geometry) (x y : Nat) : Nat := g.serp (g.rotate x y).1 (g.rotate x y).2

/-- The coordinate that the LED at an address shows: what `to_logical` returns (R69). -/
def pixel (g : Geometry) (a : Nat) : Nat × Nat := g.unrotate (g.unserp a).1 (g.unserp a).2

theorem led_lt {x y : Nat} (hx : x < g.W) (hy : y < g.H) : g.led x y < g.num := by
  obtain ⟨hpc, hpr⟩ := rotate_lt hx hy
  exact serp_lt hpc hpr

theorem pixel_lt {a : Nat} (h : a < g.num) : (g.pixel a).1 < g.W ∧ (g.pixel a).2 < g.H := by
  obtain ⟨hpc, hpr⟩ := unserp_lt h
  exact unrotate_lt hpc hpr

theorem pixel_led {x y : Nat} (hx : x < g.W) (hy : y < g.H) : g.pixel (g.led x y) = (x, y) := by
  obtain ⟨-, hpr⟩ := rotate_lt hx hy
  rw [pixel, led, unserp_serp hpr]
  exact unrotate_rotate hx hy

theorem led_pixel {a : Nat} (h : a < g.num) : g.led (g.pixel a).1 (g.pixel a).2 = a := by
  obtain ⟨hpc, hpr⟩ := unserp_lt h
  rw [led, pixel, rotate_unrotate hpc hpr]
  exact serp_unserp h

/-! ### The two operations (R66, R69) -/

/-- A word is the 16-bit form of a number that fits exactly when it has that number's value. -/
theorem ofNat_eq_iff {n : Nat} (h : n < 2 ^ 16) (w : U16) : BitVec.ofNat 16 n = w ↔ w.toNat = n := by
  rw [← BitVec.toNat_inj, BitVec.toNat_ofNat, Nat.mod_eq_of_lt h, eq_comm]

/-- `to_physical` returns the coordinate's LED; under a legal configuration the address fits its 16 bits. -/
theorem toPhysical_eq_ok_iff (hlegal : g.legal = true) (x y a : U16) :
    g.toPhysical x y = .ok a ↔ x.toNat < g.W ∧ y.toNat < g.H ∧ a.toNat = g.led x.toNat y.toNat := by
  unfold toPhysical
  split
  · next hvalid =>
    obtain ⟨hx, hy⟩ := (g.valid_iff _ _).mp hvalid
    obtain ⟨-, -, hnum⟩ := g.legal_iff.mp hlegal
    have hfits : g.led x.toNat y.toNat < 2 ^ 16 := (led_lt hx hy).trans_le (by omega)
    rw [Except.ok.injEq]
    exact (ofNat_eq_iff hfits a).trans ⟨fun ha => ⟨hx, hy, ha⟩, fun ⟨_, _, ha⟩ => ha⟩
  · next hinvalid =>
    exact ⟨fun h => (nomatch h), fun ⟨hx, hy, _⟩ => absurd ((g.valid_iff _ _).mpr ⟨hx, hy⟩) hinvalid⟩

/-- `to_logical` returns the LED's coordinate; being valid, it fits its 16 bits. -/
theorem toLogical_eq_ok_iff (a x y : U16) :
    g.toLogical a = .ok (x, y) ↔ a.toNat < g.num ∧ (x.toNat, y.toNat) = g.pixel a.toNat := by
  unfold toLogical
  split
  · next ha =>
    obtain ⟨hx, hy⟩ := pixel_lt ha
    obtain ⟨hW, hH⟩ := g.extent_lt
    rw [Except.ok.injEq, Prod.mk.injEq, Prod.ext_iff]
    exact (and_congr (ofNat_eq_iff (hx.trans hW) x) (ofNat_eq_iff (hy.trans hH) y)).trans
      ⟨fun h => ⟨ha, h⟩, fun ⟨_, h⟩ => h⟩
  · next ha => exact ⟨fun h => (nomatch h), fun ⟨h, _⟩ => absurd h ha⟩

theorem exists_toPhysical {x y : U16} (hx : x.toNat < g.W) (hy : y.toNat < g.H) :
    ∃ a, g.toPhysical x y = .ok a :=
  ⟨_, if_pos ((g.valid_iff _ _).mpr ⟨hx, hy⟩)⟩

theorem exists_toLogical {a : U16} (h : a.toNat < g.num) : ∃ x y, g.toLogical a = .ok (x, y) :=
  ⟨_, _, if_pos h⟩

theorem toPhysical_outside {x y : U16} (h : g.W ≤ x.toNat ∨ g.H ≤ y.toNat) :
    g.toPhysical x y = .error (.coordinate x y) := by
  refine if_neg fun hvalid => ?_
  obtain ⟨hx, hy⟩ := (g.valid_iff _ _).mp hvalid
  omega

theorem toLogical_outside {a : U16} (h : g.num ≤ a.toNat) : g.toLogical a = .error (.address a) :=
  if_neg (Nat.not_lt.mpr h)

/-! ### The inverse law (R70) -/

theorem toLogical_of_toPhysical (hlegal : g.legal = true) {x y a : U16} (h : g.toPhysical x y = .ok a) :
    g.toLogical a = .ok (x, y) := by
  obtain ⟨hx, hy, ha⟩ := (toPhysical_eq_ok_iff hlegal x y a).mp h
  rw [toLogical_eq_ok_iff, ha]
  exact ⟨led_lt hx hy, (pixel_led hx hy).symm⟩

theorem toPhysical_of_toLogical (hlegal : g.legal = true) {a x y : U16} (h : g.toLogical a = .ok (x, y)) :
    g.toPhysical x y = .ok a := by
  obtain ⟨ha, hxy⟩ := (toLogical_eq_ok_iff a x y).mp h
  have hvalid := pixel_lt ha
  have hled := led_pixel ha
  rw [← hxy] at hvalid hled
  obtain ⟨hx, hy⟩ := hvalid
  exact (toPhysical_eq_ok_iff hlegal x y a).mpr ⟨hx, hy, hled.symm⟩

/-- Settles O41: each operation undoes the other, and two coordinates with one LED are both what `to_logical` returns of
it. -/
theorem mapperOperationsAreInverse : Obligations.MapperOperationsAreInverse := by
  unfold Obligations.MapperOperationsAreInverse
  intro g hlegal
  refine ⟨fun x y hx hy => ?_, fun a ha => ?_, fun x y x' y' a h h' => ?_⟩
  · obtain ⟨a, h⟩ := exists_toPhysical hx hy
    have hback := toLogical_of_toPhysical hlegal h
    obtain ⟨ha, -⟩ := (toLogical_eq_ok_iff a x y).mp hback
    exact ⟨a, h, ha, hback⟩
  · obtain ⟨x, y, h⟩ := exists_toLogical (g := g) ha
    have hback := toPhysical_of_toLogical hlegal h
    obtain ⟨hx, hy, -⟩ := (toPhysical_eq_ok_iff hlegal x y a).mp hback
    exact ⟨x, y, h, hx, hy, hback⟩
  · have hsame : Except.ok (x, y) = Except.ok (x', y') :=
      (toLogical_of_toPhysical hlegal h).symm.trans (toLogical_of_toPhysical hlegal h')
    simpa using hsame

/-! ### Orientation at `ROT = 0` (R72) -/

/-- At `ROT = 0` the LEDs of the first column count from its top. -/
theorem led_firstColumn (h : g.rot = 0#2) (y : Nat) : g.led 0 y = y := by
  obtain ⟨-, -, hrotate, -⟩ := turn_rot0 h
  rw [led, hrotate, serp_eq, alongStrip_even rfl, Nat.zero_mul, Nat.zero_add]

/-- At `ROT = 0` the LEDs of the second column count from its foot. -/
theorem led_secondColumn (h : g.rot = 0#2) (y : Nat) : g.led 1 y = g.R + (g.R - 1 - y) := by
  obtain ⟨-, -, hrotate, -⟩ := turn_rot0 h
  rw [led, hrotate, serp_eq, alongStrip_odd rfl, Nat.one_mul]

theorem toNat_rows_sub_one (h : 1 ≤ g.R) : (g.rows - 1#16).toNat = g.R - 1 := by
  unfold R at *
  bv_omega

/-- Settles O42: the first column by `led_firstColumn`, the place where the strip turns back by `led_secondColumn`. -/
theorem orientationAtRotZero : Obligations.OrientationAtRotZero := by
  unfold Obligations.OrientationAtRotZero
  intro g hlegal hrot
  obtain ⟨hW, hH, hrotate, -⟩ := turn_rot0 hrot
  obtain ⟨hR, hC, -⟩ := g.legal_iff.mp hlegal
  have hfoot : (g.rows - 1#16).toNat = g.R - 1 := toNat_rows_sub_one hR
  have hrows : g.rows.toNat = g.R := rfl
  refine ⟨hrotate, ?_, ?_, fun hcolumns => ?_⟩
  · rw [toPhysical_eq_ok_iff hlegal, hW, hH]
    exact ⟨hC, hR, (led_firstColumn hrot 0).symm⟩
  · rw [toPhysical_eq_ok_iff hlegal, hW, hH, hfoot]
    exact ⟨hC, by omega, (led_firstColumn hrot _).symm⟩
  · rw [toPhysical_eq_ok_iff hlegal, hW, hH, hfoot]
    exact ⟨hcolumns, by omega, by rw [BitVec.toNat_ofNat, led_secondColumn hrot]; omega⟩

end Sys2Proof.Geometry

namespace Sys2Proof.Machine

/-! ### The steps of the mapper's operations -/

/-- An operation of a free host that ends in its one step with the answer `r`. -/
theorem finish_takeInput {s : State} (hready : s.thread = .ready) (rest : List Input) (r : Return) :
    (s.takeInput rest).finish r =
      { s with inputs := rest, out := { msg := none, ferr := none }, ret := some r } := by
  simp [State.finish, State.takeInput, hready, Outputs.none]

/-- A mapper fault of a free host: it is answered and reported, and nothing else is written (R17, R113). -/
theorem mapperFault_takeInput {s : State} (hready : s.thread = .ready) (rest : List Input) (v : MapperOperand) :
    mapperFault v (s.takeInput rest) =
      { s with
        inputs := rest, out := { msg := none, ferr := none }, ret := some (.mapperRange v),
        hostLog := s.hostLog ++ [.mapperRange v] } := by
  simp [mapperFault, State.raiseEvent, State.finish, State.takeInput, hready, Outputs.none]

theorem step_toPhysical {s : State} {x y : U16} {rest : List Input} (hready : s.thread = .ready)
    (hi : s.inputs = .call (.toPhysical x y) :: rest) : step s = callToPhysical x y (s.takeInput rest) := by
  simp [step_call hi, hostCall, hready]

theorem step_toLogical {s : State} {a : U16} {rest : List Input} (hready : s.thread = .ready)
    (hi : s.inputs = .call (.toLogical a) :: rest) : step s = callToLogical a (s.takeInput rest) := by
  simp [step_call hi, hostCall, hready]

theorem callToPhysical_of_ok {s : State} {x y a : U16} (hs : s.configured)
    (h : s.params.geometry.toPhysical x y = .ok a) : callToPhysical x y s = .next (s.finish (.address a)) := by
  obtain ⟨hloaded, hlegal⟩ := hs
  rw [callToPhysical, withConfiguration_legal _ hloaded hlegal, h]

theorem callToPhysical_of_error {s : State} {x y : U16} {v : MapperOperand} (hs : s.configured)
    (h : s.params.geometry.toPhysical x y = .error v) : callToPhysical x y s = .next (mapperFault v s) := by
  obtain ⟨hloaded, hlegal⟩ := hs
  rw [callToPhysical, withConfiguration_legal _ hloaded hlegal, h]

theorem callToLogical_of_ok {s : State} {a x y : U16} (hs : s.configured)
    (h : s.params.geometry.toLogical a = .ok (x, y)) : callToLogical a s = .next (s.finish (.coordinate x y)) := by
  obtain ⟨hloaded, hlegal⟩ := hs
  rw [callToLogical, withConfiguration_legal _ hloaded hlegal, h]

theorem callToLogical_of_error {s : State} {a : U16} {v : MapperOperand} (hs : s.configured)
    (h : s.params.geometry.toLogical a = .error v) : callToLogical a s = .next (mapperFault v s) := by
  obtain ⟨hloaded, hlegal⟩ := hs
  rw [callToLogical, withConfiguration_legal _ hloaded hlegal, h]

/-- Settles O39: a valid coordinate has its LED (`toPhysical_eq_ok_iff`), any other is the fault's operand. -/
theorem toPhysicalReturnsTheAddressOrFaults : Obligations.ToPhysicalReturnsTheAddressOrFaults := by
  unfold Obligations.ToPhysicalReturnsTheAddressOrFaults
  rintro s g x y rest hready hloaded rfl hlegal hi
  have hconfigured : (s.takeInput rest).configured := ⟨hloaded, hlegal⟩
  rw [step_toPhysical hready hi]
  refine ⟨fun hx hy => ?_, fun houtside => ?_⟩
  · obtain ⟨a, h⟩ := Geometry.exists_toPhysical hx hy
    obtain ⟨-, -, ha⟩ := (Geometry.toPhysical_eq_ok_iff hlegal x y a).mp h
    refine ⟨a, ha, ha ▸ Geometry.led_lt hx hy, ?_⟩
    rw [callToPhysical_of_ok hconfigured h, finish_takeInput hready]
  · rw [callToPhysical_of_error hconfigured (Geometry.toPhysical_outside houtside), mapperFault_takeInput hready]

/-- Settles O40: an address of the panel has its coordinate (`toLogical_eq_ok_iff`), any other is the fault's
operand. -/
theorem toLogicalReturnsTheCoordinateOrFaults : Obligations.ToLogicalReturnsTheCoordinateOrFaults := by
  unfold Obligations.ToLogicalReturnsTheCoordinateOrFaults
  rintro s g a rest hready hloaded rfl hlegal hi
  have hconfigured : (s.takeInput rest).configured := ⟨hloaded, hlegal⟩
  rw [step_toLogical hready hi]
  refine ⟨fun ha => ?_, fun houtside => ?_⟩
  · obtain ⟨x, y, h⟩ := Geometry.exists_toLogical ha
    obtain ⟨-, hxy⟩ := (Geometry.toLogical_eq_ok_iff a x y).mp h
    refine ⟨x, y, hxy, ?_⟩
    rw [callToLogical_of_ok hconfigured h, finish_takeInput hready]
  · rw [callToLogical_of_error hconfigured (Geometry.toLogical_outside houtside), mapperFault_takeInput hready]

/-- With the host free, either mapper operation is guarded by the configuration (R62, R127). -/
theorem step_mapperCall {s : State} {x y a : U16} {rest : List Input} (hready : s.thread = .ready)
    (hi : s.inputs = .call (.toPhysical x y) :: rest ∨ s.inputs = .call (.toLogical a) :: rest) :
    ∃ f, step s = withConfiguration (s.takeInput rest) f := by
  rcases hi with hi | hi
  · exact ⟨_, step_toPhysical hready hi⟩
  · exact ⟨_, step_toLogical hready hi⟩

/-- Settles O43: the guard's two refusals. -/
theorem mapperNeedsALegalConfiguration : Obligations.MapperNeedsALegalConfiguration := by
  unfold Obligations.MapperNeedsALegalConfiguration
  intro s x y a rest hready hi
  obtain ⟨f, hstep⟩ := step_mapperCall hready hi
  rw [hstep]
  exact ⟨withConfiguration_unloaded (s := s.takeInput rest) f, withConfiguration_illegal (s := s.takeInput rest) f⟩

end Sys2Proof.Machine

/-! Proofs of the statements about the wire messages (spec/41_wire_messages.md): the `Encode` and `Build` lines of R74 to
R80, and what a message does when it completes. -/

namespace Sys2Proof.Machine

/-! ### The `Encode` and `Build` lines (R74 to R80) -/

/-- Settles O5: `build_opcode` for `Init`, whose operand is the number `u16le_toNat` gives. -/
theorem initEncodesAndBuilds : Obligations.InitEncodesAndBuilds := by
  unfold Obligations.InitEncodesAndBuilds
  exact ⟨fun n => rfl, fun p0 p1 => ⟨u16le p0 p1, build_opcode .init [p0, p1], u16le_toNat p0 p1⟩⟩

/-- An Idle Decoder emits a message without payload on its opcode byte (R87). -/
theorem feed_idle_payloadless {m : WireMessage} (h : m.kind.payloadLen = 0) :
    feed Decoder.idle m.tag = some { dec := Decoder.idle, msg := some m, ferr := none } := by
  have ha : Decoder.idle.action m.tag = .run m.toInstr := opcodeAction_payloadless m h
  exact feed_message ha

/-- Settles O6: neither message has a payload, so its encoding is its tag (`encodeMessage_payloadless`), on which an Idle
Decoder emits it (`feed_idle_payloadless`). -/
theorem clearAndShowAreOneByte : Obligations.ClearAndShowAreOneByte := by
  unfold Obligations.ClearAndShowAreOneByte
  have hclear : WireMessage.clear.kind.payloadLen = 0 := rfl
  have hshow : WireMessage.showPixels.kind.payloadLen = 0 := rfl
  exact ⟨encodeMessage_payloadless hclear, encodeMessage_payloadless hshow,
    build_opcode .clear [], build_opcode .showPixels [],
    feed_idle_payloadless hclear, feed_idle_payloadless hshow⟩

/-- Settles O7: `build_opcode` for `SetPixel`, whose address is the number `u16le_toNat` gives. -/
theorem setPixelEncodesAndBuilds : Obligations.SetPixelEncodesAndBuilds := by
  unfold Obligations.SetPixelEncodesAndBuilds
  exact ⟨fun a r g b => rfl, fun p0 p1 p2 p3 p4 =>
    ⟨u16le p0 p1, build_opcode .setPixel [p0, p1, p2, p3, p4], u16le_toNat p0 p1⟩⟩

/-- Settles O8: `build_opcode` for `SetClock`, whose operand is the number `u32le_toNat` gives. -/
theorem setClockEncodesAndBuilds : Obligations.SetClockEncodesAndBuilds := by
  unfold Obligations.SetClockEncodesAndBuilds
  exact ⟨fun t => rfl, fun p0 p1 p2 p3 =>
    ⟨u32le p0 p1 p2 p3, build_opcode .setClock [p0, p1, p2, p3], u32le_toNat p0 p1 p2 p3⟩⟩

/-- The Boolean byte reads as false at `00` only (R54, D5). -/
theorem byteBool_eq_true_iff (b : Byte) : byteBool b = true ↔ b ≠ 0x00#8 := bne_iff_ne

/-- Settles O9: `build_opcode` for `SetAutoRender`, whose operand `byteBool_eq_true_iff` reads. -/
theorem setAutoRenderEncodesAndBuilds : Obligations.SetAutoRenderEncodesAndBuilds := by
  unfold Obligations.SetAutoRenderEncodesAndBuilds
  refine ⟨rfl, rfl, build_opcode .setAutoRender [0x00#8], fun p hp => ?_⟩
  calc build 0x74#8 [p] = some (.setAutoRender (byteBool p)) := build_opcode .setAutoRender [p]
    _ = some (.setAutoRender true) := by rw [(byteBool_eq_true_iff p).mpr hp]

/-- Settles O10: `build_opcode` for `SuspendHost`, whose operand is the number `u16le_toNat` gives. -/
theorem suspendHostEncodesAndBuilds : Obligations.SuspendHostEncodesAndBuilds := by
  unfold Obligations.SuspendHostEncodesAndBuilds
  exact ⟨fun n => rfl, fun p0 p1 => ⟨u16le p0 p1, build_opcode .suspendHost [p0, p1], u16le_toNat p0 p1⟩⟩

/-! ### A message completes (R84, R87, R91) -/

/-- Settles O17: an instruction that carries a message emits it (`exec_toInstr`), and nothing else. -/
theorem everyMessageIsEmittedAndLeavesIdle : Obligations.EveryMessageIsEmittedAndLeavesIdle := by
  unfold Obligations.EveryMessageIsEmittedAndLeavesIdle
  intro s
  exact ⟨fun n => exec_toInstr (.init n) s, exec_toInstr .clear s, exec_toInstr .showPixels s,
    fun a r g b => exec_toInstr (.setPixel a r g b) s, fun t => exec_toInstr (.setClock t) s,
    fun e => exec_toInstr (.setAutoRender e) s, fun d => exec_toInstr (.suspendHost d) s⟩

end Sys2Proof.Machine

/-! Proofs of the statements about the Decoder (spec/42_decoder.md): what the step on one byte does, and what a sequence
of bytes does in any chunking. -/

namespace Sys2Proof.Machine

/-! ### Chunks fed in turn (R92, R94, R96) -/

theorem feedChunks_cons (d : Decoder) (c : List Byte) (cs : List (List Byte)) :
    feedChunks d (c :: cs) = (feedChunk d c).bind fun r => (feedChunks r.dec cs).map r.append := by
  rw [feedChunks]
  cases feedChunk d c with
  | none => rfl
  | some r =>
    simp only [Option.bind_some]
    cases feedChunks r.dec cs <;> rfl

/-- Settles O31: by induction on the chunks; a concatenation is fed part by part (`feedChunk_append`). -/
theorem chunkingDoesNotMatter : Obligations.ChunkingDoesNotMatter := by
  unfold Obligations.ChunkingDoesNotMatter
  intro d chunks
  induction chunks generalizing d with
  | nil => rfl
  | cons c cs ih => simp only [feedChunks_cons, List.flatten_cons, feedChunk_append, ih]

/-- Settles O33: the chunking is immaterial (`chunkingDoesNotMatter`), and the whole stream gives its messages by
induction on them (`feedChunk_encodeMessages`). -/
theorem encodedStreamDecodes : Obligations.EncodedStreamDecodes := by
  unfold Obligations.EncodedStreamDecodes
  intro ms chunks hbytes
  rw [chunkingDoesNotMatter, hbytes, feedChunk_encodeMessages]

/-! ### The step on a byte, by the Decoder's action (R85) -/

/-- A byte that completes an instruction runs it in the step that takes the byte. -/
theorem step_read_run {s : State} {b : Byte} {c : List Byte} {rest : List Input} {i : Instr}
    (hi : s.inputs = .read (b :: c) :: rest) (h : s.dec.action b = .run i) :
    step s = exec i (s.takeInput (readRest c rest)) := by
  rw [step_read_cons hi]
  simp [deviceByte, h]

theorem step_read_message {s : State} {b : Byte} {c : List Byte} {rest : List Input} {m : WireMessage}
    (hi : s.inputs = .read (b :: c) :: rest) (h : s.dec.action b = .run m.toInstr) :
    step s = .next ((s.takeInput (readRest c rest)).emitMessage m) := by
  rw [step_read_run hi h, exec_toInstr]

theorem step_read_collect {s : State} {b : Byte} {c : List Byte} {rest : List Input} {d : Decoder}
    (hi : s.inputs = .read (b :: c) :: rest) (h : s.dec.action b = .collect d) :
    step s = .next ((s.takeInput (readRest c rest)).setDecoder d) := by
  rw [step_read_cons hi]
  simp [deviceByte, h]

/-! ### A byte in the opcode position (R86 to R88) -/

/-- Settles O22: in the opcode position the byte `00` is the resync instruction (`opcodeAction_resync`). -/
theorem zeroByteInIdleIsNoOperation : Obligations.ZeroByteInIdleIsNoOperation := by
  unfold Obligations.ZeroByteInIdleIsNoOperation
  intro s c rest hidle hi
  have ha : s.dec.action resyncByte = .run .resync := (action_idle s.dec _ hidle).trans opcodeAction_resync
  rw [step_read_run hi ha]
  rfl

/-- An Idle Decoder emits a message without payload on its opcode byte, and stays Idle (R87). -/
theorem step_idle_payloadless {s : State} {m : WireMessage} {c : List Byte} {rest : List Input}
    (hm : m.kind.payloadLen = 0) (hidle : s.dec = Decoder.idle) (hi : s.inputs = .read (m.tag :: c) :: rest) :
    step s = .next { s with
      inputs := readRest c rest, ret := none, out := { msg := some m, ferr := none },
      consumer := s.consumer ++ [m] } := by
  have ha : s.dec.action m.tag = .run m.toInstr := by rw [hidle]; exact opcodeAction_payloadless m hm
  rw [step_read_message hi ha, hidle]
  rfl

/-- Settles O23: the bytes `63` and `73` are the tags of the two messages without payload. -/
theorem payloadlessOpcodeEmitsAtOnce : Obligations.PayloadlessOpcodeEmitsAtOnce := by
  unfold Obligations.PayloadlessOpcodeEmitsAtOnce
  intro s c rest hidle
  exact ⟨step_idle_payloadless (m := .clear) rfl hidle, step_idle_payloadless (m := .showPixels) rfl hidle⟩

/-- The opcodes that R88 lists, with their payload lengths: the rows of the byte table that have a payload. -/
theorem payloadOpcodes_eq :
    [(0x69#8, 2), (0x6C#8, 5), (0x40#8, 4), (0x74#8, 1), (0x53#8, 2)] =
      (MessageKind.all.filter fun k => decide (1 ≤ k.payloadLen)).map fun k => (k.opcode, k.payloadLen) := rfl

/-- Settles O24: each listed byte is the opcode of a kind with a payload, whose collection it begins
(`opcodeAction_opcode`). -/
theorem payloadOpcodeBeginsCollecting : Obligations.PayloadOpcodeBeginsCollecting := by
  unfold Obligations.PayloadOpcodeBeginsCollecting
  intro s o n c rest hlisted hidle hi
  rw [payloadOpcodes_eq] at hlisted
  obtain ⟨k, hk, hrow⟩ := List.mem_map.mp hlisted
  obtain ⟨rfl, rfl⟩ := Prod.mk.inj hrow
  have hlen : 1 ≤ k.payloadLen := of_decide_eq_true (List.mem_filter.mp hk).2
  rw [step_read_collect hi ((action_idle s.dec _ hidle).trans (opcodeAction_opcode k hlen))]
  rfl

/-! ### A byte in a payload position (R90, R91) -/

/-- Settles O26: with two or more bytes expected a byte is collected, in any state. -/
theorem payloadByteIsCollected : Obligations.PayloadByteIsCollected := by
  unfold Obligations.PayloadByteIsCollected
  intro s o b c rest ho hrem hi
  obtain ⟨n, hn⟩ : ∃ n, s.dec.rem = n + 2 := ⟨s.dec.rem - 2, by omega⟩
  have ha : s.dec.action b = .collect { op := some o, acc := s.dec.acc ++ [b], rem := n + 1 } := by
    rw [action_collecting s.dec o b ho, hn]
    rfl
  rw [step_read_collect hi ha, hn]
  rfl

/-- Settles O27: within R21 the last byte completes a payload of the table's length, from which `build` gives a message
(`payloadAction_cases`). -/
theorem lastPayloadByteEmitsTheMessage : Obligations.LastPayloadByteEmitsTheMessage := by
  unfold Obligations.LastPayloadByteEmitsTheMessage
  intro s o b c rest hwf ho hrem hi
  obtain ⟨k, rfl, hr, hl⟩ := collecting_of_wf hwf ho
  rcases payloadAction_cases k s.dec.acc s.dec.rem b hr hl with ⟨h2, -⟩ | ⟨-, m, -, hbuild, ha⟩
  · omega
  · refine ⟨m, (build_opcode k _).trans hbuild, ?_⟩
    rw [step_read_message hi ((action_collecting s.dec _ b ho).trans ha)]
    rfl

/-! ### The step as `feed`, and as the decoded instruction (R40, R85) -/

/-- `feed` has a result in every state that meets R21, with at most one output (R15, R85). -/
theorem exists_feed {d : Decoder} (hd : d.wf = true) (b : Byte) :
    ∃ r, feed d b = some r ∧ (r.msg = none ∨ r.ferr = none) := by
  cases ho : d.op with
  | none =>
    have ha := action_idle d b ho
    rcases opcodeAction_cases b with ⟨-, hb⟩ | ⟨m, -, -, hb⟩ | ⟨k, -, -, hb⟩ | ⟨-, -, hb⟩
    · exact ⟨_, feed_resync (ha.trans hb), .inl rfl⟩
    · exact ⟨_, feed_message (ha.trans hb), .inr rfl⟩
    · exact ⟨_, feed_collect (ha.trans hb), .inl rfl⟩
    · exact ⟨_, feed_framingError (ha.trans hb), .inl rfl⟩
  | some o =>
    obtain ⟨k, rfl, hr, hl⟩ := collecting_of_wf hd ho
    have ha := action_collecting d k.opcode b ho
    rcases payloadAction_cases k d.acc d.rem b hr hl with ⟨-, hb⟩ | ⟨-, m, -, -, hb⟩
    · exact ⟨_, feed_collect (ha.trans hb), .inl rfl⟩
    · exact ⟨_, feed_message (ha.trans hb), .inr rfl⟩

/-- Settles O29: `feed` has a result (`exists_feed`), and the step receives it (`step_read_feed`). -/
theorem byteStepIsFeed : Obligations.ByteStepIsFeed := by
  unfold Obligations.ByteStepIsFeed
  intro s b c rest hwf hi
  obtain ⟨r, hr, hout⟩ := exists_feed hwf b
  exact ⟨r, hr, hout, step_read_feed hi hr⟩

/-- An opcode with too short a payload does not decode. -/
theorem decode_opcode_truncated {k : MessageKind} {p : List Byte} (h : p.length < k.payloadLen) :
    decode (k.opcode :: p) = .error .truncated := by
  have hbuild : k.build p = none := by
    rw [Option.eq_none_iff_forall_ne_some]
    exact fun i hi => h.ne (length_of_build hi)
  simp [decode, opcode_ne_resyncByte, List.take_of_length_le h.le, hbuild]

theorem decode_unknown {b : Byte} (h0 : b ≠ resyncByte) (h : known b = false) (rest : List Byte) :
    decode (b :: rest) = .error (.unknownOpcode b) := by
  have hk : kindOf b = none := by simpa [known] using h
  simp [decode, h0, hk]

/-- Within R21 the instruction that the bytes collected and one more byte decode to is the one that byte completes: the
converse of `decode_collected_of_action`, with the resync byte included. -/
theorem action_of_decode_collected {d : Decoder} {b : Byte} {i : Instr} (hd : d.wf = true)
    (h : decode (d.collected ++ [b]) = .ok (i, [])) : d.action b = .run i := by
  cases ho : d.op with
  | none =>
    rw [eq_idle_of_wf hd ho] at h ⊢
    change decode [b] = _ at h
    rw [action_idle _ b idle_op]
    rcases opcodeAction_cases b with ⟨rfl, ha⟩ | ⟨m, rfl, hm, ha⟩ | ⟨k, rfl, hk, -⟩ | ⟨h0, hb, -⟩
    · rw [decode_resync] at h; cases h
      exact ha
    · rw [← encodeMessage_payloadless hm, ← List.append_nil (encodeMessage m), decode_encodeMessage] at h; cases h
      exact ha
    · rw [decode_opcode_truncated (p := []) hk] at h; cases h
    · rw [decode_unknown h0 hb] at h; cases h
  | some o =>
    obtain ⟨k, rfl, hr, hl⟩ := collecting_of_wf hd ho
    have hbytes : d.collected ++ [b] = k.opcode :: (d.acc ++ [b]) := by simp [Decoder.collected, ho]
    rw [hbytes] at h
    rw [action_collecting d _ b ho]
    rcases payloadAction_cases k d.acc d.rem b hr hl with ⟨h2, -⟩ | ⟨-, m, -, hbuild, ha⟩
    · have hshort : (d.acc ++ [b]).length < k.payloadLen := by
        rw [List.length_append, List.length_singleton]; omega
      rw [decode_opcode_truncated hshort] at h; cases h
    · rw [← List.append_nil (d.acc ++ [b]), decode_opcode_payload [] hbuild] at h; cases h
      exact ha

/-- Settles O20: the decoded instruction is the one that the byte completes (`action_of_decode_collected`), and the step
runs it. -/
theorem stepRunsTheDecodedInstruction : Obligations.StepRunsTheDecodedInstruction := by
  unfold Obligations.StepRunsTheDecodedInstruction
  intro s b c rest i hwf hi hdecode
  exact step_read_run hi (action_of_decode_collected hwf hdecode)

/-! ### `rst` (R93, R125) -/

/-- Settles O30: `rst` is an input of its own, on which the step only asserts it (`step_rst`). -/
theorem rstDiscardsThePartialMessage : Obligations.RstDiscardsThePartialMessage := by
  unfold Obligations.RstDiscardsThePartialMessage
  intro s rest hi
  exact step_rst hi

/-! ### Runs of zeros (R95) -/

theorem length_zeros (n : Nat) : (zeros n).length = n := List.length_replicate

theorem zeros_add (j k : Nat) : zeros (j + k) = zeros j ++ zeros k := List.replicate_add ..

theorem feedChunk_idle_zeros (n : Nat) :
    feedChunk Decoder.idle (zeros n) = some { dec := Decoder.idle, msgs := [], ferrs := [] } := by
  induction n with
  | zero => rfl
  | succ n ih =>
    have ha : Decoder.idle.action resyncByte = .run .resync := opcodeAction_resync
    exact feedChunk_cons_of_feed (feed_resync ha) ih

/-- In Collecting the zeros still expected are data: they complete the message, and any more are fed in Idle (R90,
R91). -/
theorem feedChunk_collecting_zeros {d : Decoder} {o : Byte} (hd : d.wf = true) (ho : d.op = some o) :
    ∃ m : WireMessage, build o (d.acc ++ zeros d.rem) = some m.toInstr ∧
      ∀ n, d.rem ≤ n → feedChunk d (zeros n) = some { dec := Decoder.idle, msgs := [m], ferrs := [] } := by
  obtain ⟨k, rfl, hr, hl⟩ := collecting_of_wf hd ho
  obtain ⟨m, hbuild, -⟩ := build_of_length k (d.acc ++ zeros d.rem) (by rw [List.length_append, length_zeros, hl])
  have hcomplete : feedChunk d (zeros d.rem) = some { dec := Decoder.idle, msgs := [m], ferrs := [] } := by
    have hne : zeros d.rem ≠ [] := by rw [← List.length_pos_iff, length_zeros]; exact hr
    have hfeed := feedChunk_payload (zeros d.rem) d.acc hne hbuild
    rwa [length_zeros, ← ho] at hfeed
  refine ⟨m, (build_opcode k _).trans hbuild, fun n hn => ?_⟩
  rw [← Nat.add_sub_cancel' hn, zeros_add, feedChunk_append, hcomplete, Option.bind_some, feedChunk_idle_zeros]
  rfl

/-- No payload is longer than `MAX_PAYLOAD` (R11). -/
theorem payloadLen_le_maxPayload (k : MessageKind) : k.payloadLen ≤ Config.maxPayload := by
  cases k <;> decide

/-- Settles O32: an Idle Decoder takes zeros as resyncs (`feedChunk_idle_zeros`), and one that collects takes them as
data (`feedChunk_collecting_zeros`, `feedChunk_collects`), of which it expects five at most. -/
theorem zeroRunLaws : Obligations.ZeroRunLaws := by
  unfold Obligations.ZeroRunLaws
  intro d n hd
  refine ⟨fun hidle => ?_, fun o ho hn => ?_, fun o ho hn => ?_, fun hn => ?_⟩
  · rw [eq_idle_of_wf hd hidle]
    exact feedChunk_idle_zeros n
  · obtain ⟨m, hbuild, hfeed⟩ := feedChunk_collecting_zeros hd ho
    exact ⟨m, hbuild, hfeed d.rem (Nat.le_refl _), hfeed n hn⟩
  · have hfeed := feedChunk_collects o (zeros n) d.acc (by rwa [length_zeros])
    rw [length_zeros, ← ho] at hfeed
    rw [← ho]
    exact hfeed
  · cases ho : d.op with
    | none =>
      rw [eq_idle_of_wf hd ho]
      exact ⟨[], feedChunk_idle_zeros n⟩
    | some o =>
      obtain ⟨k, -, -, hl⟩ := collecting_of_wf hd ho
      have hmax : k.payloadLen ≤ 5 := payloadLen_le_maxPayload k
      obtain ⟨m, -, hfeed⟩ := feedChunk_collecting_zeros hd ho
      exact ⟨[m], hfeed n (by omega)⟩

end Sys2Proof.Machine

/-! Proofs of the statements about the HostLink controller (spec/43_host_link.md): `open` and `send`, the three steps of
recovery, what the end of a `send` means, its budget of writes, and the guarantee of recovery. -/

namespace Sys2Proof.Machine

/-! ### The steps of `open` and `send` (R97 to R99, R128) -/

theorem callOpen_closed {s : State} (h : s.link = .closed) :
    callOpen s = withConfiguration s fun _ => .next { s with thread := .opening } := by
  simp [callOpen, h]

theorem callOpen_not_closed {s : State} (h : s.link ≠ .closed) : callOpen s = .refused .openWhileNotClosed := by
  cases hlink : s.link with
  | closed => exact absurd hlink h
  | opened | failed => simp [callOpen, hlink]

theorem callSend_opened {s : State} (m : WireMessage) (h : s.link = .opened) :
    callSend m s = withConfiguration s fun _ =>
      .next (s.issueWrite (encodeMessage m) (.writing (encodeMessage m))) := by
  simp [callSend, h]

theorem callSend_not_opened {s : State} (m : WireMessage) (h : s.link ≠ .opened) :
    callSend m s = .refused .sendWhileNotOpen := by
  cases hlink : s.link with
  | opened => exact absurd hlink h
  | closed | failed => simp [callSend, hlink]

theorem step_openLink {s : State} {rest : List Input} (hready : s.thread = .ready)
    (hi : s.inputs = .call .openLink :: rest) : step s = callOpen (s.takeInput rest) := by
  simp [step_call hi, hostCall, hready]

theorem step_send {s : State} {m : WireMessage} {rest : List Input} (hready : s.thread = .ready)
    (hi : s.inputs = .call (.send m) :: rest) : step s = callSend m (s.takeInput rest) := by
  simp [step_call hi, hostCall, hready]

/-- `open` issues `LinkOpen` and waits (R97). -/
theorem step_openLink_issues {s : State} {rest : List Input} (hready : s.thread = .ready) (hlink : s.link = .closed)
    (hs : s.configured) (hi : s.inputs = .call .openLink :: rest) :
    step s = .next { s.takeInput rest with thread := .opening } := by
  obtain ⟨hloaded, hlegal⟩ := hs
  rw [step_openLink hready hi, callOpen_closed (s := s.takeInput rest) hlink]
  exact withConfiguration_legal _ hloaded hlegal

/-- `send` issues its first write and waits (R99). -/
theorem step_send_writes {s : State} {m : WireMessage} {rest : List Input} (hready : s.thread = .ready)
    (hlink : s.link = .opened) (hs : s.configured) (hi : s.inputs = .call (.send m) :: rest) :
    step s = .next ((s.takeInput rest).issueWrite (encodeMessage m) (.writing (encodeMessage m))) := by
  obtain ⟨hloaded, hlegal⟩ := hs
  rw [step_send hready hi, callSend_opened (s := s.takeInput rest) m hlink]
  exact withConfiguration_legal _ hloaded hlegal

/-! ### The step on an answer, by the place where the thread waits (R16, R97 to R102) -/

/-- A timeout within the length written is an answer of R16. -/
theorem timeoutStep_of_le {bs : List Byte} {k : Nat} (t : State) (h : k ≤ bs.length) :
    timeoutStep bs k t = .next t := if_pos h

section Answers

variable {s : State} {bs : List Byte} {k : Nat} {rest : List Input}

theorem step_opening_ok (hwait : s.thread = .opening) (hi : s.inputs = .answer .openOk :: rest) :
    step s = .next ((s.takeInput rest).linkOpened.finish .ok) := by
  simp [step_answer hi, hostAnswer, hwait, answerOpening]

theorem step_opening_fail (hwait : s.thread = .opening) (hi : s.inputs = .answer .openFail :: rest) :
    step s = .next (s.takeInput rest).failFatally := by
  simp [step_answer hi, hostAnswer, hwait, answerOpening]

theorem step_writing_ok (hwait : s.thread = .writing bs) (hi : s.inputs = .answer .writeOk :: rest) :
    step s = .next ((s.takeInput rest).finish .ok) := by
  simp [step_answer hi, hostAnswer, hwait, answerWriting]

theorem step_writing_timeout (hwait : s.thread = .writing bs) (hk : k ≤ bs.length)
    (hi : s.inputs = .answer (.writeTimeout k) :: rest) :
    step s = .next { (s.takeInput rest).raiseEvent .linkWriteTimeout with
      link := .closed, thread := .reopening bs } := by
  simp [step_answer hi, hostAnswer, hwait, answerWriting, timeoutStep_of_le _ hk]

theorem step_reopening_ok (hwait : s.thread = .reopening bs) (hi : s.inputs = .answer .openOk :: rest) :
    step s = .next ((s.takeInput rest).linkOpened.issueWrite (zeros s.params.resyncLen) (.resyncing bs)) := by
  simp [step_answer hi, hostAnswer, hwait, answerReopening]

theorem step_reopening_fail (hwait : s.thread = .reopening bs) (hi : s.inputs = .answer .openFail :: rest) :
    step s = .next (s.takeInput rest).failFatally := by
  simp [step_answer hi, hostAnswer, hwait, answerReopening]

theorem step_resyncing_ok (hwait : s.thread = .resyncing bs) (hi : s.inputs = .answer .writeOk :: rest) :
    step s = .next ((s.takeInput rest).issueWrite bs (.retrying bs)) := by
  simp [step_answer hi, hostAnswer, hwait, answerResyncing]

theorem step_resyncing_timeout (hwait : s.thread = .resyncing bs) (hk : k ≤ s.params.resyncLen)
    (hi : s.inputs = .answer (.writeTimeout k) :: rest) : step s = .next (s.takeInput rest).failFatally := by
  have hrun : k ≤ (zeros s.params.resyncLen).length := by rwa [length_zeros]
  simp [step_answer hi, hostAnswer, hwait, answerResyncing, timeoutStep_of_le _ hrun]

theorem step_retrying_ok (hwait : s.thread = .retrying bs) (hi : s.inputs = .answer .writeOk :: rest) :
    step s = .next ((s.takeInput rest).finish .ok) := by
  simp [step_answer hi, hostAnswer, hwait, answerRetrying]

theorem step_retrying_timeout (hwait : s.thread = .retrying bs) (hk : k ≤ bs.length)
    (hi : s.inputs = .answer (.writeTimeout k) :: rest) : step s = .next (s.takeInput rest).failFatally := by
  simp [step_answer hi, hostAnswer, hwait, answerRetrying, timeoutStep_of_le _ hk]

end Answers

/-! ### The guarantee of recovery (R104) -/

theorem RunsTo.tail {s t u : State} (hst : RunsTo s t) (h : step t = .next u) : RunsTo s u := by
  obtain ⟨k, hk⟩ := hst
  exact ⟨k + 1, (run_add hk).trans (run_one h)⟩

/-- The resync run is long enough for every state of R21: it leaves the Decoder Idle, having completed the message in
progress where there was one (R8, R95). -/
theorem feedChunk_resyncRun {d : Decoder} {n : Nat} (hd : d.wf = true) (hn : 5 ≤ n) :
    ∃ spurious : List WireMessage, spurious.length ≤ 1 ∧
      feedChunk d (zeros n) = some { dec := Decoder.idle, msgs := spurious, ferrs := [] } := by
  obtain ⟨hidle, hcollecting, -, -⟩ := zeroRunLaws d n hd
  cases ho : d.op with
  | none => exact ⟨[], Nat.zero_le 1, hidle ho⟩
  | some o =>
    obtain ⟨k, -, -, hlen⟩ := collecting_of_wf hd ho
    have hmax : k.payloadLen ≤ 5 := payloadLen_le_maxPayload k
    obtain ⟨m, -, -, hfeed⟩ := hcollecting o ho (by omega)
    exact ⟨[m], Nat.le_refl 1, hfeed⟩

/-- The bytes of a write delivered, and then its answer `Ok`, in the wait of recovery's step 2: the retransmission is
written (R101, R102). -/
theorem runsTo_resyncRun_answered {s : State} {bs bytes : List Byte} {again : List Input} {q : ChunkResult}
    (hwait : s.thread = .resyncing bs) (hdeliver : LinkDelivers bytes s.inputs (.answer .writeOk :: again))
    (hq : feedChunk s.dec bytes = some q) :
    ∃ u, RunsTo s u ∧ Received (s.issueWrite bs (.retrying bs)) q again u := by
  obtain ⟨chunks, rfl, hi⟩ := hdeliver
  obtain ⟨v, hrun, hv⟩ := runsTo_delivery hi hq
  have hstep : step v = .next ((v.takeInput again).issueWrite bs (.retrying bs)) :=
    step_resyncing_ok (hv.thread.trans hwait) hv.inputs
  exact ⟨_, hrun.tail hstep, { hv with
    inputs := rfl, thread := rfl, written := congrArg (· ++ [bs]) hv.written }⟩

/-- The bytes of a write delivered, and then its answer `Ok`, in the wait of recovery's step 3: the `send` returns `Ok`
(R102). -/
theorem runsTo_retransmission_answered {s : State} {bs bytes : List Byte} {rest : List Input} {q : ChunkResult}
    (hwait : s.thread = .retrying bs) (hdeliver : LinkDelivers bytes s.inputs (.answer .writeOk :: rest))
    (hq : feedChunk s.dec bytes = some q) :
    ∃ t, RunsTo s t ∧ Received (s.finish .ok) q rest t ∧ t.ret = some .ok := by
  obtain ⟨chunks, rfl, hi⟩ := hdeliver
  obtain ⟨v, hrun, hv⟩ := runsTo_delivery hi hq
  have hstep : step v = .next ((v.takeInput rest).finish .ok) := step_retrying_ok (hv.thread.trans hwait) hv.inputs
  exact ⟨_, hrun.tail hstep, { hv with inputs := rfl, thread := rfl }, rfl⟩

/-- Settles O55: the run leaves the Decoder Idle (`feedChunk_resyncRun`), and an Idle Decoder makes the message of the
retransmission (`feedChunk_encodeMessage`). -/
theorem recoveryDeliversTheMessage : Obligations.RecoveryDeliversTheMessage := by
  unfold Obligations.RecoveryDeliversTheMessage
  rintro s m _ again rest hwf hlen hlink hwait hrun hagain rfl
  obtain ⟨spurious, hone, hzeros⟩ := feedChunk_resyncRun hwf hlen
  obtain ⟨u, hsu, hu⟩ := runsTo_resyncRun_answered hwait hrun hzeros
  have hmessage : feedChunk u.dec (encodeMessage m) = some { dec := Decoder.idle, msgs := [m], ferrs := [] } := by
    rw [hu.dec, feedChunk_encodeMessage]
  obtain ⟨t, hut, ht, hret⟩ := runsTo_retransmission_answered hu.thread (hu.inputs ▸ hagain) hmessage
  exact ⟨u, t, spurious, hsu, hu.inputs, hu.dec, hu.consumer, hut, ht.inputs, ht.dec,
    by simp [ht.consumer, hu.consumer], hone, by simp [ht.deviceLog, hu.deviceLog], hret,
    by simp [ht.link, hu.link, hlink], ht.thread, by simp [ht.written, hu.written]⟩

/-! ### The end of a `send` (R103) -/

/-- An answer that ends an operation other than `open`. -/
theorem hostAnswer_ends_send {a : Answer} {s t : State} (hs : threadAgrees s.link s.thread)
    (hopening : s.thread ≠ .opening) (h : hostAnswer a s = .next t) (hready : t.thread = .ready) :
    (t.ret = some .ok ∧ t.link = .opened ∧ a = .writeOk ∧
      ∃ m, s.thread = .writing (encodeMessage m) ∨ s.thread = .retrying (encodeMessage m)) ∨
    (t.ret = some .fatalLinkError ∧ t.link = .failed) := by
  rcases hostAnswer_cases h with ⟨hwait, -, -⟩ | ⟨bs, hwait, ha, rfl⟩ | ⟨bs, k, -, -, -, rfl⟩ | ⟨bs, -, -, rfl⟩ |
    ⟨bs, -, -, rfl⟩ | ⟨bs, hwait, ha, rfl⟩ | ⟨rfl, -⟩
  · exact absurd hwait hopening
  · rw [hwait] at hs
    obtain ⟨hlink, m, rfl⟩ := hs
    exact .inl ⟨rfl, hlink, ha, m, .inl hwait⟩
  case inr.inr.inr.inr.inr.inl =>
    rw [hwait] at hs
    obtain ⟨hlink, m, rfl⟩ := hs
    exact .inl ⟨rfl, hlink, ha, m, .inr hwait⟩
  case inr.inr.inr.inr.inr.inr => exact .inr ⟨rfl, rfl⟩
  all_goals cases hready

/-- Settles O53: the step is the host's on an answer (`hostAnswer_ends_send`), from a thread that agrees with its link. -/
theorem sendReturnsOkOrFatal : Obligations.SendReturnsOkOrFatal := by
  unfold Obligations.SendReturnsOkOrFatal
  intro s t a rest hs _ hopening hi h hready
  rw [step_answer hi] at h
  exact hostAnswer_ends_send (s := s.takeInput rest) hs.thread hopening h hready

/-! ### The writes of a `send` (R105) -/

/-- Of the host's calls only `send` writes to the link. -/
theorem hostCall_written {c : HostCall} {s t : State} (h : hostCall c s = .next t) :
    t.written = s.written ∨ ∃ m, c = .send m := by
  obtain ⟨-, -, hc⟩ := hostCall_cases h
  rcases hc with ⟨-, -, rfl⟩ | ⟨-, -, -, rfl⟩ | ⟨m, hsend, -, -, -⟩ |
    ⟨x, y, -, -, ⟨a, -, rfl⟩ | ⟨v, -, rfl⟩⟩ | ⟨a, -, -, ⟨x, y, -, rfl⟩ | ⟨v, -, rfl⟩⟩
  case inr.inr.inl => exact .inr ⟨m, hsend⟩
  all_goals exact .inl rfl

theorem hostCall_send_next {m : WireMessage} {s t : State} (h : hostCall (.send m) s = .next t) :
    t = s.issueWrite (encodeMessage m) (.writing (encodeMessage m)) := by
  obtain ⟨-, -, hc⟩ := hostCall_cases h
  obtain ⟨-, -, ht⟩ : s.loaded = true ∧ s.link = .opened ∧
      t = s.issueWrite (encodeMessage m) (.writing (encodeMessage m)) := by simpa using hc
  exact ht

/-- The potential of R105: an answer uses up the writes it makes the host issue. -/
theorem hostAnswer_writesLeft {a : Answer} {s t : State} (h : hostAnswer a s = .next t) :
    t.written.length + writesLeft t.thread ≤ s.written.length + writesLeft s.thread := by
  rcases hostAnswer_cases h with ⟨-, -, rfl⟩ | ⟨bs, -, -, rfl⟩ | ⟨bs, k, hwait, -, -, rfl⟩ | ⟨bs, hwait, -, rfl⟩ |
    ⟨bs, hwait, -, rfl⟩ | ⟨bs, -, -, rfl⟩ | ⟨rfl, -⟩
  case inr.inr.inl | inr.inr.inr.inl | inr.inr.inr.inr.inl => simp [writesLeft, hwait]
  all_goals simp [writesLeft]

theorem step_written_of_no_send_or_answer {s t : State} (h : step s = .next t)
    (hsend : ∀ m rest, s.inputs ≠ .call (.send m) :: rest) (hanswer : ∀ a rest, s.inputs ≠ .answer a :: rest) :
    t.written = s.written := by
  rcases step_cases h with ⟨-, rfl⟩ | ⟨rest, -, rfl⟩ | ⟨b, c, rest, -, hb⟩ | ⟨rest, -, rfl⟩ | ⟨c, rest, hi, hc⟩ |
    ⟨a, rest, hi, -⟩ | ⟨rest, -, rfl⟩
  · rfl
  · rfl
  · obtain ⟨-, -, -, -, hwritten, -⟩ := hostSide_eq_iff.mp (deviceByte_hostSide hb)
    exact hwritten
  · rfl
  · rcases hostCall_written hc with hkept | ⟨m, rfl⟩
    · exact hkept
    · exact absurd hi (hsend m rest)
  · exact absurd hi (hanswer a rest)
  · rfl

/-- Settles O54: `writesLeft` is set to two by the step of the call, and `hostAnswer_writesLeft` counts it down. -/
theorem sendWritesAtMostThreeTimes : Obligations.SendWritesAtMostThreeTimes := by
  unfold Obligations.SendWritesAtMostThreeTimes
  intro s t h
  refine ⟨fun m rest hi => ?_, fun a rest hi => ?_, step_written_of_no_send_or_answer h⟩
  · rw [step_call hi] at h
    rw [hostCall_send_next h]
    exact ⟨rfl, rfl⟩
  · rw [step_answer hi] at h
    exact hostAnswer_writesLeft (s := s.takeInput rest) h

/-! ### `open` and `send` on the normal path (R97 to R99) -/

/-- Settles O46: `open` issues `LinkOpen` (`step_openLink_issues`), whose answer ends it; the refusals are those of
`callOpen` and of the guard. -/
theorem openAtBoot : Obligations.OpenAtBoot := by
  unfold Obligations.OpenAtBoot
  intro s rest hready
  refine ⟨fun hlink hs hi => ?_, fun hlink hs hi => ?_, fun hlink hi => ?_, fun hlink hloaded hi => ?_,
    fun hlink hloaded hillegal hi => ?_⟩
  · exact ⟨_, (run_succ (step_openLink_issues hready hlink hs hi)).trans (run_one (step_opening_ok rfl rfl)),
      rfl, rfl, rfl, rfl, rfl, rfl⟩
  · exact ⟨_, (run_succ (step_openLink_issues hready hlink hs hi)).trans (run_one (step_opening_fail rfl rfl)),
      rfl, rfl, rfl, rfl, rfl, rfl⟩
  · exact (step_openLink hready hi).trans (callOpen_not_closed (s := s.takeInput rest) hlink)
  · rw [step_openLink hready hi, callOpen_closed (s := s.takeInput rest) hlink]
    exact withConfiguration_unloaded _ hloaded
  · rw [step_openLink hready hi, callOpen_closed (s := s.takeInput rest) hlink]
    exact withConfiguration_illegal _ hloaded hillegal

/-- Settles O47: the refusals of `callSend` and of the guard, and otherwise the first write (`step_send_writes`). -/
theorem sendNeedsAnOpenLink : Obligations.SendNeedsAnOpenLink := by
  unfold Obligations.SendNeedsAnOpenLink
  intro s m rest hready hi
  refine ⟨fun hlink => ?_, fun hlink hloaded => ?_, fun hlink hloaded hillegal => ?_, fun hlink hs => ?_⟩
  · exact (step_send hready hi).trans (callSend_not_opened (s := s.takeInput rest) m hlink)
  · rw [step_send hready hi, callSend_opened (s := s.takeInput rest) m hlink]
    exact withConfiguration_unloaded _ hloaded
  · rw [step_send hready hi, callSend_opened (s := s.takeInput rest) m hlink]
    exact withConfiguration_illegal _ hloaded hillegal
  · exact ⟨_, step_send_writes hready hlink hs hi⟩

/-- Settles O48: the first write (`step_send_writes`), and then its answer, or a call that finds the thread busy
(`hostCall_busy`). -/
theorem sendOnTheNormalPath : Obligations.SendOnTheNormalPath := by
  unfold Obligations.SendOnTheNormalPath
  intro s m rest hready hlink hs
  refine ⟨fun hi => ?_, fun k hk hi => ?_, fun m' hi t hrun => ?_⟩
  · rw [run_succ (step_send_writes hready hlink hs hi), run_one (step_writing_ok rfl rfl), hready]
    rfl
  · rw [run_succ (step_send_writes hready hlink hs hi), run_one (step_writing_timeout rfl hk rfl)]
    rfl
  · rw [run_succ (step_send_writes hready hlink hs hi)] at hrun
    obtain ⟨u, hstep, -⟩ := run_succ_cases hrun
    rw [step_call rfl, hostCall_busy _ (by simp)] at hstep
    cases hstep

/-! ### Recovery (R100 to R102) -/

/-- Settles O50: the timeout of the first write, and the two answers of the reopen. -/
theorem recoveryClosesAndReopens : Obligations.RecoveryClosesAndReopens := by
  unfold Obligations.RecoveryClosesAndReopens
  intro s bs rest
  exact ⟨fun _ hk hwait hi => step_writing_timeout hwait hk hi, step_reopening_ok, step_reopening_fail⟩

/-- Settles O51: the resync run is written on the reopen's `Ok`, and its timeout is `step_resyncing_timeout`. -/
theorem recoveryWritesTheResyncRun : Obligations.RecoveryWritesTheResyncRun := by
  unfold Obligations.RecoveryWritesTheResyncRun
  intro s bs rest
  exact ⟨fun hwait hi => ⟨_, step_reopening_ok hwait hi, rfl, rfl, rfl⟩,
    fun _ hwait hk hi => step_resyncing_timeout hwait hk hi⟩

/-- Settles O52: the answer to the run writes the bytes again, and the two answers of that write end the `send`. -/
theorem retransmissionEndsTheSend : Obligations.RetransmissionEndsTheSend := by
  unfold Obligations.RetransmissionEndsTheSend
  intro s bs rest
  exact ⟨step_resyncing_ok, step_retrying_ok, fun _ hwait hk hi => step_retrying_timeout hwait hk hi⟩

/-- Settles O56: the five steps of a recovered `send` in turn. -/
theorem recoveredSendWritesMessageRunMessage : Obligations.RecoveredSendWritesMessageRunMessage := by
  unfold Obligations.RecoveredSendWritesMessageRunMessage
  intro s m k rest hready hlink hs hk hi
  rw [run_succ (step_send_writes hready hlink hs hi), run_succ (step_writing_timeout rfl hk rfl),
    run_succ (step_reopening_ok rfl rfl), run_succ (step_resyncing_ok rfl rfl), run_one (step_retrying_ok rfl rfl)]
  exact ⟨_, rfl, rfl, rfl, rfl, by simp, rfl, rfl⟩

end Sys2Proof.Machine

/-! Proofs of the statements about the block's events (spec/60_exceptions.md): which bytes raise a framing error, and
that a step raises at most one event. -/

namespace Sys2Proof.Machine

/-! ### The framing error (R89, R110) -/

/-- In a payload position every byte is data (R58). -/
theorem payloadAction_ne_framingError (o : Byte) (acc : List Byte) (r : Nat) (b e : Byte) :
    payloadAction o acc r b ≠ .framingError e := by
  match r with
  | 0 => simp [payloadAction]
  | 1 => cases hbuild : build o (acc ++ [b]) <;> simp [payloadAction, hbuild]
  | r + 2 => simp [payloadAction]

/-- The only framing error is R89's: an unknown byte in the opcode position. No invariant of the Decoder is needed. -/
theorem action_eq_framingError {d : Decoder} {b e : Byte} (h : d.action b = .framingError e) :
    d.op = none ∧ b ≠ resyncByte ∧ known b = false ∧ e = b := by
  cases ho : d.op with
  | none =>
    rw [action_idle d b ho] at h
    rcases opcodeAction_cases b with ⟨-, ha⟩ | ⟨m, -, -, ha⟩ | ⟨k, -, -, ha⟩ | ⟨h0, hk, ha⟩ <;> rw [ha] at h <;> cases h
    exact ⟨rfl, h0, hk, rfl⟩
  | some o =>
    rw [action_collecting d o b ho] at h
    exact absurd h (payloadAction_ne_framingError o d.acc d.rem b e)

/-- A Decoder step reports no framing error, or is R89's on an unknown byte in Idle. -/
theorem deviceByte_ferr_cases {b : Byte} {s t : State} (hs : s.out = Outputs.none) (h : deviceByte b s = .next t) :
    (t.out.ferr = none ∧ t.deviceLog = s.deviceLog) ∨
    (s.dec.op = none ∧ b ≠ resyncByte ∧ known b = false ∧
      t = (s.setDecoder Decoder.idle).raiseEvent (.framingError b)) := by
  rcases deviceByte_cases h with ⟨-, rfl⟩ | ⟨m, -, rfl⟩ | ⟨d, -, rfl⟩ | ⟨e, ha, rfl⟩
  · exact .inl ⟨rfl, rfl⟩
  · exact .inl ⟨rfl, rfl⟩
  · exact .inl ⟨by rw [setDecoder_out, hs, outputs_none_ferr], rfl⟩
  · obtain ⟨ho, h0, hk, rfl⟩ := action_eq_framingError ha
    exact .inr ⟨ho, h0, hk, rfl⟩

/-- A step reports no framing error and leaves the device's log, or is R89's Decoder step. -/
theorem step_ferr_cases {s t : State} (h : step s = .next t) :
    (t.out.ferr = none ∧ t.deviceLog = s.deviceLog) ∨
    (∃ b c rest, s.inputs = .read (b :: c) :: rest ∧ s.dec.op = none ∧ b ≠ resyncByte ∧ known b = false ∧
      t = ((s.takeInput (readRest c rest)).setDecoder Decoder.idle).raiseEvent (.framingError b)) := by
  rcases step_cases h with ⟨-, rfl⟩ | ⟨rest, -, rfl⟩ | ⟨b, c, rest, hi, hb⟩ | ⟨rest, -, rfl⟩ | ⟨c, rest, -, hc⟩ |
    ⟨a, rest, -, ha⟩ | ⟨rest, -, rfl⟩
  · exact .inl ⟨rfl, rfl⟩
  · exact .inl ⟨rfl, rfl⟩
  · rcases deviceByte_ferr_cases rfl hb with hnone | ⟨ho, h0, hk, ht⟩
    · exact .inl hnone
    · exact .inr ⟨b, c, rest, hi, ho, h0, hk, ht⟩
  · exact .inl ⟨rfl, rfl⟩
  · obtain ⟨-, hlog, hout, -⟩ := hostCall_deviceFrame hc
    exact .inl ⟨by rw [hout]; rfl, hlog⟩
  · obtain ⟨-, hlog, hout, -⟩ := hostAnswer_deviceFrame ha
    exact .inl ⟨by rw [hout]; rfl, hlog⟩
  · exact .inl ⟨rfl, rfl⟩

/-- Settles O28: both clauses are read off `step_ferr_cases`. -/
theorem framingErrorOnlyOnUnknownOpcodeInIdle : Obligations.FramingErrorOnlyOnUnknownOpcodeInIdle := by
  unfold Obligations.FramingErrorOnlyOnUnknownOpcodeInIdle
  intro s t h
  rcases step_ferr_cases h with ⟨hnone, hlog⟩ | ⟨b, c, rest, hi, ho, h0, hk, rfl⟩
  · exact ⟨fun e he => absurd (hnone.symm.trans he) nofun, fun _ => hlog⟩
  · refine ⟨fun e he => ?_, nofun⟩
    obtain rfl : b = e := Option.some.inj he
    exact ⟨ho, h0, hk, ⟨c, rest, hi⟩, rfl, rfl⟩

/-! ### At most one event a step (R108, R109, R117) -/

/-- Of the host's calls only a rejected mapper operation raises an event (R113). -/
theorem hostCall_hostLog {c : HostCall} {s t : State} (h : hostCall c s = .next t) :
    t.hostLog = s.hostLog ∨ ∃ e, t.hostLog = s.hostLog ++ [e] := by
  obtain ⟨-, -, hc⟩ := hostCall_cases h
  rcases hc with ⟨-, -, rfl⟩ | ⟨-, -, -, rfl⟩ | ⟨m, -, -, -, rfl⟩ |
    ⟨x, y, -, -, ⟨a, -, rfl⟩ | ⟨v, -, rfl⟩⟩ | ⟨a, -, -, ⟨x, y, -, rfl⟩ | ⟨v, -, rfl⟩⟩
  case inr.inr.inr.inl.inr | inr.inr.inr.inr.inr => exact .inr ⟨.mapperRange v, rfl⟩
  all_goals exact .inl rfl

/-- An answer raises an event only where it begins recovery (R111) or is fatal (R112). -/
theorem hostAnswer_hostLog {a : Answer} {s t : State} (h : hostAnswer a s = .next t) :
    t.hostLog = s.hostLog ∨ ∃ e, t.hostLog = s.hostLog ++ [e] := by
  rcases hostAnswer_cases h with ⟨-, -, rfl⟩ | ⟨bs, -, -, rfl⟩ | ⟨bs, k, -, -, -, rfl⟩ | ⟨bs, -, -, rfl⟩ |
    ⟨bs, -, -, rfl⟩ | ⟨bs, -, -, rfl⟩ | ⟨rfl, -⟩
  case inr.inr.inl => exact .inr ⟨.linkWriteTimeout, rfl⟩
  case inr.inr.inr.inr.inr.inr => exact .inr ⟨.fatalLinkError, rfl⟩
  all_goals exact .inl rfl

theorem step_hostLog {s t : State} (h : step s = .next t) :
    t.hostLog = s.hostLog ∨ ∃ e, t.hostLog = s.hostLog ++ [e] := by
  rcases step_cases h with ⟨-, rfl⟩ | ⟨rest, -, rfl⟩ | ⟨b, c, rest, -, hb⟩ | ⟨rest, -, rfl⟩ | ⟨c, rest, -, hc⟩ |
    ⟨a, rest, -, ha⟩ | ⟨rest, -, rfl⟩
  · exact .inl rfl
  · exact .inl rfl
  · obtain ⟨-, -, -, hlog, -⟩ := hostSide_eq_iff.mp (deviceByte_hostSide hb)
    exact .inl hlog
  · exact .inl rfl
  · exact hostCall_hostLog (s := s.takeInput rest) hc
  · exact hostAnswer_hostLog (s := s.takeInput rest) ha
  · exact .inl rfl

/-- Settles O59: a step that reports a framing error is known exactly (`step_ferr_cases`); any other leaves the device's
log, and raises at most one event of the host (`step_hostLog`). -/
theorem atMostOneEventAStep : Obligations.AtMostOneEventAStep := by
  unfold Obligations.AtMostOneEventAStep
  refine ⟨fun _ => rfl, rfl, rfl, fun _ => rfl, fun s t h => ?_⟩
  have hout := step_outputs h
  rcases step_ferr_cases h with ⟨-, hdevice⟩ | ⟨b, c, rest, -, -, -, -, rfl⟩
  · rcases step_hostLog h with hhost | ⟨e, hhost⟩
    · exact ⟨[], [], by simpa using hdevice, by simpa using hhost, Nat.zero_le 1, hout, by simp⟩
    · exact ⟨[], [e], by simpa using hdevice, hhost, Nat.le_refl 1, hout, by simp⟩
  · exact ⟨[.framingError b], [], rfl, (List.append_nil _).symm, Nat.le_refl 1, hout, fun _ => ⟨rfl, rfl⟩⟩

end Sys2Proof.Machine

/-! Proof of the statement about a new start of the host (spec/70_reset_and_hazards.md, R126 and R133). -/

namespace Sys2Proof.Machine

/-- Settles O58: on `hostStart` the step takes the input and restarts the host (`step_hostStart`); the state of the
statement is that of `takeInput` and `restartHost`, which write none of the device's fields but its outputs, cleared at
the start of every step. -/
theorem hostStartLeavesTheDeviceAlone : Obligations.HostStartLeavesTheDeviceAlone := by
  unfold Obligations.HostStartLeavesTheDeviceAlone
  intro s rest hi
  rw [step_hostStart hi, State.restartHost, State.takeInput, Outputs.none]

end Sys2Proof.Machine

/-! Proof of the statement about the placement of a table word (log entry 2): the bytes before its instruction's last
leave an Idle Decoder collecting them, and the last byte is the next input. -/

namespace Sys2Proof.Machine

/-! ### The bytes that a decoded instruction takes (R47, R56) -/

/-- A byte sequence that decodes begins with the resync byte, or with an opcode and a payload that `build` accepts. -/
theorem decode_ok_cases {bs rest : List Byte} {i : Instr} (h : decode bs = .ok (i, rest)) :
    (bs = resyncByte :: rest ∧ i = .resync) ∨
    ∃ (k : MessageKind) (p : List Byte), bs = k.opcode :: (p ++ rest) ∧ k.build p = some i := by
  match bs with
  | [] => cases h
  | o :: t =>
    by_cases h0 : o = resyncByte
    · rw [h0, decode_resync] at h; cases h
      exact .inl ⟨by rw [h0], rfl⟩
    cases hk : kindOf o with
    | none => rw [decode_unknown h0 (by simp [known, hk])] at h; cases h
    | some k =>
      obtain rfl := opcode_of_kindOf hk
      cases hbuild : k.build (t.take k.payloadLen) with
      | none => simp [decode, h0, hbuild] at h
      | some j =>
        obtain ⟨rfl, rfl⟩ : j = i ∧ t.drop k.payloadLen = rest := by simpa [decode, h0, hbuild] using h
        exact .inr ⟨k, t.take k.payloadLen, by rw [List.take_append_drop], hbuild⟩

/-- The instruction's own bytes of a table word decode to the instruction of the word, with no byte left. -/
theorem decode_tableWordInstrBytes {nbits w : Nat} {i : Instr} (h : decodeTableWord nbits w = some i) :
    decode (tableWordInstrBytes nbits w) = .ok (i, []) := by
  rw [decodeTableWord] at h
  cases hdecode : decode (tableWordBytes nbits w) with
  | error e => rw [hdecode] at h; cases h
  | ok r =>
    obtain ⟨j, rest⟩ := r
    rw [hdecode] at h; cases h
    rcases decode_ok_cases hdecode with ⟨hbytes, rfl⟩ | ⟨k, p, hbytes, hbuild⟩
    · have hplen : plen resyncByte = none := by simp [plen, kindOf_resyncByte]
      simpa [tableWordInstrBytes, hbytes, hplen] using decode_resync []
    · have hlen : p.length = k.payloadLen := length_of_build hbuild
      simpa [tableWordInstrBytes, hbytes, ← hlen] using decode_opcode_payload [] hbuild

/-! ### The Decoder before an instruction's last byte (R88, R90) -/

theorem collectBytes_cons {d d' : Decoder} {b : Byte} (bs : List Byte) (h : d.action b = .collect d') :
    d.collectBytes (b :: bs) = d'.collectBytes bs := by
  simp [Decoder.collectBytes, h]

/-- A Decoder that expects more than the bytes `p` collects them: `feedChunk_collects`, of the state alone. -/
theorem collectBytes_payload (o : Byte) (p acc : List Byte) {r : Nat} (h : p.length < r) :
    Decoder.collectBytes { op := some o, acc := acc, rem := r } p =
      { op := some o, acc := acc ++ p, rem := r - p.length } := by
  induction p generalizing acc r with
  | nil => simp [Decoder.collectBytes]
  | cons b p ih =>
    rw [List.length_cons] at h
    obtain ⟨n, rfl⟩ : ∃ n, r = n + 2 := ⟨r - 2, by omega⟩
    rw [collectBytes_cons p rfl, ih (acc ++ [b]) (by omega)]
    simp

/-- The bytes before an instruction's last leave an Idle Decoder within R21, with exactly these bytes collected. -/
theorem collectBytes_before_last {bs : List Byte} {b : Byte} {i : Instr} (h : decode (bs ++ [b]) = .ok (i, [])) :
    (Decoder.idle.collectBytes bs).wf = true ∧ (Decoder.idle.collectBytes bs).collected = bs := by
  match bs with
  | [] => exact ⟨wf_idle, rfl⟩
  | o :: p =>
    rcases decode_ok_cases h with ⟨hbytes, -⟩ | ⟨k, q, hbytes, hbuild⟩
    · simp at hbytes
    · obtain ⟨rfl, rfl⟩ : o = k.opcode ∧ p ++ [b] = q := by simpa using hbytes
      have hlen : p.length + 1 = k.payloadLen := by simpa using length_of_build hbuild
      have hopcode : Decoder.idle.action k.opcode = _ := opcodeAction_opcode k (by omega)
      rw [collectBytes_cons p hopcode, collectBytes_payload k.opcode p [] (by omega)]
      exact ⟨wf_collecting (by omega) (by rw [List.nil_append]; omega), rfl⟩

/-! ### The placement -/

theorem withFetchWord_of_bytes (s : State) {nbits w : Nat} {bs : List Byte} {b : Byte}
    (h : tableWordInstrBytes nbits w = bs ++ [b]) :
    s.withFetchWord nbits w =
      { s with dec := Decoder.idle.collectBytes bs, inputs := .read [b] :: s.inputs } := by
  simp [State.withFetchWord, placeTableWord, h]

/-- Settles O21: the placed Decoder has collected the instruction's bytes but the last (`collectBytes_before_last`), so
that the step on the last one runs what they decode to (`stepRunsTheDecodedInstruction`). -/
theorem placedTableWordRunsNext : Obligations.PlacedTableWordRunsNext := by
  unfold Obligations.PlacedTableWordRunsNext
  intro s nbits w i h
  have hdecode := decode_tableWordInstrBytes h
  rcases List.eq_nil_or_concat' (tableWordInstrBytes nbits w) with hnil | ⟨bs, b, hbytes⟩
  · rw [hnil] at hdecode; cases hdecode
  rw [hbytes] at hdecode
  obtain ⟨hwf, hcollected⟩ := collectBytes_before_last hdecode
  rw [withFetchWord_of_bytes s hbytes]
  refine stepRunsTheDecodedInstruction _ b [] s.inputs i hwf rfl ?_
  change decode ((Decoder.idle.collectBytes bs).collected ++ [b]) = _
  rw [hcollected, hdecode]

end Sys2Proof.Machine
